-- ==== Sys2Proof/Word.lean ====
section
/-!
DEFINITION. The word types of FIBCORE: the 64-bit host register (R7, R9), the 32-bit limb storage cell (R7), the
output byte (R33) and the 4-bit operand field of a command word (R81).
-/

namespace Sys2Proof

/-- A host register, a command word or a native-integer operand: 64 bits (R7, R9). -/
abbrev Word := BitVec 64

/-- One stored limb: 32 bits, its value below the radix in every canonical number (R7, R20, R21). -/
abbrev Limb := BitVec 32

/-- One character of the decimal output buffer (R33). -/
abbrev Byte := BitVec 8

/-- The content of one big-integer register: its first `len` limbs, least significant first (R10, R20).
The register's `len` is the length of the list; limb storage above `len` is not architectural (R20). -/
abbrev BigUint := List Limb

/-- A V register operand field: 4 bits, every value names a register V0 to V15 (R82). -/
abbrev VReg := BitVec 4

/-- A matrix operand field: 4 bits as the command word holds it; only 0 to 3 name a matrix (R82). -/
abbrev MReg := BitVec 4

end Sys2Proof
end

