-- ==== Sys2Proof/Syntax.lean ====
section
/-!
DEFINITION. The commands of FIBCORE, one constructor per row of spec/opcode_table.json (R84). A field that a command
leaves unused does not appear; the native-integer operand is not part of the word (R83), so it does not appear either.
-/

namespace Sys2Proof

/-- The twelve commands of R84. Fields are named as R81 names them; V fields are any 4-bit value, M fields are kept as
the 4 bits of the word and checked by `Instr.wf` (R82). -/
inductive Instr where
  /-- `NOP` (R100). -/
  | nop
  /-- `VZERO vd` (R101). -/
  | vzero (rd : VReg)
  /-- `VCONST vd, #value` (R102). -/
  | vconst (rd : VReg)
  /-- `VMOV vd, vs` (R103). -/
  | vmov (rd rs1 : VReg)
  /-- `VLIMBIN vd, #limb` (R104). -/
  | vlimbin (rd : VReg)
  /-- `VADD vd, va, vb` (R120). -/
  | vadd (rd rs1 rs2 : VReg)
  /-- `VMUL vd, va, vb` (R122). -/
  | vmul (rd rs1 rs2 : VReg)
  /-- `MMUL md, ma, mb` (R160). -/
  | mmul (rd rs1 rs2 : MReg)
  /-- `MPOW md, ma, #exponent` (R162). -/
  | mpow (rd rs1 : MReg)
  /-- `FIB vd, #n` (R180). -/
  | fib (rd : VReg)
  /-- `LOWDIG vs, #k` (R140). -/
  | lowdig (rs1 : VReg)
  /-- `DECSTR vs` (R142). -/
  | decstr (rs1 : VReg)
deriving DecidableEq, Repr

/-- The twelve opcodes of R84, by name. -/
inductive Opcode where
  | nop | vzero | vconst | vmov | vlimbin | vadd | vmul | mmul | mpow | fib | lowdig | decstr
deriving DecidableEq, Repr

/-- How a command uses an operand field (R82). -/
inductive FieldKind where
  /-- A big-integer register index, every value legal. -/
  | v
  /-- A matrix register index, legal for 0 to 3. -/
  | m
  /-- The field must be 0. -/
  | unused
deriving DecidableEq, Repr

/-- The opcode of a command. -/
def Instr.opcode : Instr → Opcode
  | .nop => .nop
  | .vzero _ => .vzero
  | .vconst _ => .vconst
  | .vmov _ _ => .vmov
  | .vlimbin _ => .vlimbin
  | .vadd _ _ _ => .vadd
  | .vmul _ _ _ => .vmul
  | .mmul _ _ _ => .mmul
  | .mpow _ _ => .mpow
  | .fib _ => .fib
  | .lowdig _ => .lowdig
  | .decstr _ => .decstr

end Sys2Proof
end

