-- ==== Sys2Proof/WellFormed.lean ====
section
/-!
DEFINITION. Which terms of `Instr` are commands of R84: every M field is 0 to 3 (R82). V fields have no illegal value.
-/

namespace Sys2Proof

/-- A matrix operand field names one of M0 to M3 (R82). -/
def mfieldOk (m : MReg) : Bool := decide (m.toNat < 4)

/-- The operand check of R82 and R85: "an M field > 3" is illegal. -/
def Instr.wf : Instr → Bool
  | .nop => true
  | .vzero _ => true
  | .vconst _ => true
  | .vmov _ _ => true
  | .vlimbin _ => true
  | .vadd _ _ _ => true
  | .vmul _ _ _ => true
  | .mmul rd rs1 rs2 => mfieldOk rd && mfieldOk rs1 && mfieldOk rs2
  | .mpow rd rs1 => mfieldOk rd && mfieldOk rs1
  | .fib _ => true
  | .lowdig _ => true
  | .decstr _ => true

end Sys2Proof
end

