-- ==== Sys2Proof/Decode.lean ====
section
/-!
DEFINITION. Decoding a 64-bit CMD value (R80 to R86), total, rejecting by name; then the encoder (R81, R87) and the
match and mask of every row of the opcode table (R84).
-/

namespace Sys2Proof

/-- Why a CMD value spells no command (R85). At completion each of them is reported as ILLEGAL_CMD (R200). -/
inductive DecodeError where
  /-- w[63:32] ≠ 0 (R80). -/
  | highBits
  /-- w[31:20] ≠ 0 (R81). -/
  | reservedBits
  /-- The opcode is not in the table of R84. -/
  | badOpcode
  /-- An unused field is not 0 (R82). -/
  | unusedField
  /-- An M field is above 3 (R82). -/
  | matrixField
deriving DecidableEq, Repr

/-! ## The fields of a command word (R81) -/

/-- op <- w[7:0] (R81). -/
def fieldOp (w : Word) : BitVec 8 := w.extractLsb' 0 8

/-- rd <- w[11:8] (R81). -/
def fieldRd (w : Word) : BitVec 4 := w.extractLsb' 8 4

/-- rs1 <- w[15:12] (R81). -/
def fieldRs1 (w : Word) : BitVec 4 := w.extractLsb' 12 4

/-- rs2 <- w[19:16] (R81). -/
def fieldRs2 (w : Word) : BitVec 4 := w.extractLsb' 16 4

/-- w[31:20], reserved, must be 0 (R81). -/
def fieldReserved (w : Word) : BitVec 12 := w.extractLsb' 20 12

/-- w[63:32], must be 0 (R80). -/
def fieldHigh (w : Word) : BitVec 32 := w.extractLsb' 32 32

/-! ## The opcode map (R84) -/

/-- The opcode number of a command (R84). -/
def Opcode.number : Opcode → BitVec 8
  | .nop => 0x00
  | .vzero => 0x01
  | .vconst => 0x02
  | .vmov => 0x03
  | .vlimbin => 0x04
  | .vadd => 0x10
  | .vmul => 0x11
  | .mmul => 0x20
  | .mpow => 0x21
  | .fib => 0x30
  | .lowdig => 0x40
  | .decstr => 0x41

/-- The opcode a number names, none for the reserved numbers of R85. -/
def opcodeOf (n : BitVec 8) : Option Opcode :=
  match n.toNat with
  | 0x00 => some .nop
  | 0x01 => some .vzero
  | 0x02 => some .vconst
  | 0x03 => some .vmov
  | 0x04 => some .vlimbin
  | 0x10 => some .vadd
  | 0x11 => some .vmul
  | 0x20 => some .mmul
  | 0x21 => some .mpow
  | 0x30 => some .fib
  | 0x40 => some .lowdig
  | 0x41 => some .decstr
  | _ => none

/-- The kind of the rd field (R84). -/
def Opcode.kindRd : Opcode → FieldKind
  | .nop | .lowdig | .decstr => .unused
  | .mmul | .mpow => .m
  | .vzero | .vconst | .vmov | .vlimbin | .vadd | .vmul | .fib => .v

/-- The kind of the rs1 field (R84). -/
def Opcode.kindRs1 : Opcode → FieldKind
  | .nop | .vzero | .vconst | .vlimbin | .fib => .unused
  | .mmul | .mpow => .m
  | .vmov | .vadd | .vmul | .lowdig | .decstr => .v

/-- The kind of the rs2 field (R84). -/
def Opcode.kindRs2 : Opcode → FieldKind
  | .mmul => .m
  | .vadd | .vmul => .v
  | .nop | .vzero | .vconst | .vmov | .vlimbin | .mpow | .fib | .lowdig | .decstr => .unused

/-- The check of one field against its kind (R82, R86): `none` when the field is legal. -/
def fieldProblem (k : FieldKind) (f : BitVec 4) : Option DecodeError :=
  match k with
  | .v => none
  | .m => if f.toNat > 3 then some .matrixField else none
  | .unused => if f ≠ 0 then some .unusedField else none

/-- The command with this opcode and these fields; unused fields are dropped. -/
def Opcode.command (o : Opcode) (rd rs1 rs2 : BitVec 4) : Instr :=
  match o with
  | .nop => .nop
  | .vzero => .vzero rd
  | .vconst => .vconst rd
  | .vmov => .vmov rd rs1
  | .vlimbin => .vlimbin rd
  | .vadd => .vadd rd rs1 rs2
  | .vmul => .vmul rd rs1 rs2
  | .mmul => .mmul rd rs1 rs2
  | .mpow => .mpow rd rs1
  | .fib => .fib rd
  | .lowdig => .lowdig rs1
  | .decstr => .decstr rs1

/-- The first field problem, the fields taken in the order rd, rs1, rs2 (R86). -/
def firstFieldProblem (o : Opcode) (rd rs1 rs2 : BitVec 4) : Option DecodeError :=
  (fieldProblem o.kindRd rd).orElse fun _ =>
    (fieldProblem o.kindRs1 rs1).orElse fun _ => fieldProblem o.kindRs2 rs2

/-- Decode(w) of R86: a total function of the 64-bit word. -/
def decode (w : Word) : Except DecodeError Instr :=
  if fieldHigh w ≠ 0 then .error .highBits
  else if fieldReserved w ≠ 0 then .error .reservedBits
  else
    match opcodeOf (fieldOp w) with
    | none => .error .badOpcode
    | some o =>
      match firstFieldProblem o (fieldRd w) (fieldRs1 w) (fieldRs2 w) with
      | some e => .error e
      | none => .ok (o.command (fieldRd w) (fieldRs1 w) (fieldRs2 w))

/-- The host's question about one row of spec/opcode_table.json: the command read from the CMD value whose low `nbits`
bits are those of `w` and whose other bits are 0. -/
def decodeTableWord (nbits w : Nat) : Option Instr :=
  match decode (BitVec.ofNat 64 (w % 2 ^ nbits)) with
  | .ok i => some i
  | .error _ => none

/-! ## The encoder (R81, R87) -/

/-- `word = op | rd << 8 | rs1 << 12 | rs2 << 16` (R87). -/
def commandWord (op : BitVec 8) (rd rs1 rs2 : BitVec 4) : Word :=
  op.setWidth 64 ||| rd.setWidth 64 <<< 8 ||| rs1.setWidth 64 <<< 12 ||| rs2.setWidth 64 <<< 16

/-- The CMD value of a command (R87). -/
def encode : Instr → Word
  | .nop => commandWord 0x00 0 0 0
  | .vzero rd => commandWord 0x01 rd 0 0
  | .vconst rd => commandWord 0x02 rd 0 0
  | .vmov rd rs1 => commandWord 0x03 rd rs1 0
  | .vlimbin rd => commandWord 0x04 rd 0 0
  | .vadd rd rs1 rs2 => commandWord 0x10 rd rs1 rs2
  | .vmul rd rs1 rs2 => commandWord 0x11 rd rs1 rs2
  | .mmul rd rs1 rs2 => commandWord 0x20 rd rs1 rs2
  | .mpow rd rs1 => commandWord 0x21 rd rs1 0
  | .fib rd => commandWord 0x30 rd 0 0
  | .lowdig rs1 => commandWord 0x40 0 rs1 0
  | .decstr rs1 => commandWord 0x41 0 rs1 0

/-! ## The rows of the opcode table (R84) -/

/-- The "match" of a row of spec/opcode_table.json. -/
def Opcode.tableMatch : Opcode → Word
  | .nop => 0x0000000000000000
  | .vzero => 0x0000000000000001
  | .vconst => 0x0000000000000002
  | .vmov => 0x0000000000000003
  | .vlimbin => 0x0000000000000004
  | .vadd => 0x0000000000000010
  | .vmul => 0x0000000000000011
  | .mmul => 0x0000000000000020
  | .mpow => 0x0000000000000021
  | .fib => 0x0000000000000030
  | .lowdig => 0x0000000000000040
  | .decstr => 0x0000000000000041

/-- The "mask" of a row of spec/opcode_table.json. -/
def Opcode.tableMask : Opcode → Word
  | .nop => 0xFFFFFFFFFFFFFFFF
  | .vzero => 0xFFFFFFFFFFFFF0FF
  | .vconst => 0xFFFFFFFFFFFFF0FF
  | .vmov => 0xFFFFFFFFFFFF00FF
  | .vlimbin => 0xFFFFFFFFFFFFF0FF
  | .vadd => 0xFFFFFFFFFFF000FF
  | .vmul => 0xFFFFFFFFFFF000FF
  | .mmul => 0xFFFFFFFFFFFCCCFF
  | .mpow => 0xFFFFFFFFFFFFCCFF
  | .fib => 0xFFFFFFFFFFFFF0FF
  | .lowdig => 0xFFFFFFFFFFFF0FFF
  | .decstr => 0xFFFFFFFFFFFF0FFF

end Sys2Proof
end

