-- ==== Sys2Proof/Config.lean ====
section
/-!
DEFINITION. What an implementation of FIBCORE fixes (the OPEN parameters LIMB_DIGITS and MAXLIMBS, R5 and R6) and the
free values the spec leaves open (R39, R68). The parameters are data, held in the state's `params` field and readable in
CFG0 and CFG1, so that a claim over all states is a claim over all parameters. The other OPEN parameters (BUS_PROTOCOL,
BASE_ADDR, IRQ_ROUTING) are read by no rule (R60, R206) and have no counterpart here.
-/

namespace Sys2Proof.Config

/-- The build parameters of one FIBCORE (R5, R6). -/
structure Params where
  /-- LIMB_DIGITS: decimal digits per limb, 1 to 9 (R5). -/
  limbDigits : Nat
  /-- MAXLIMBS: the most limbs a big-integer register holds, 3 to 2^32 - 1 (R6). -/
  maxLimbs : Nat
deriving DecidableEq, Repr

/-- The ranges of R5 and R6. -/
def Params.wf (p : Params) : Bool :=
  decide (1 ≤ p.limbDigits) && decide (p.limbDigits ≤ 9) &&
    decide (3 ≤ p.maxLimbs) && decide (p.maxLimbs ≤ 2 ^ 32 - 1)

/-- The radix B = 10^LIMB_DIGITS (R5). -/
def Params.radix (p : Params) : Nat := 10 ^ p.limbDigits

/-- OUTCAP = LIMB_DIGITS · MAXLIMBS characters (R7, R33). -/
def Params.outCap (p : Params) : Nat := p.limbDigits * p.maxLimbs

/-- The parameters of `State.reset`: LIMB_DIGITS = 9 is the default of R5.
DESIGN CHOICE (log 1, unsafe): MAXLIMBS has no default; 64 is the value the spec's test vectors assume
(95_test_vectors.md, Conventions). Claims about reset are stated over every legal `Params` instead. -/
def Params.standard : Params := { limbDigits := 9, maxLimbs := 64 }

/-- The value of a read of RESULT, RD_LEN, RD_LIMB, OUT_LEN or OUT_CHAR while BUSY, "any 64-bit value (a draw, under no
law)" (R68). Free value (log 4), applied to the state's draw counter. -/
opaque freeRead : Nat → Word

/-- Content of one cell of ACC (cells 0 to 3) or BASE (cells 4 to 7) where the spec leaves it unspecified (R39, R201).
Free value (log 5), applied to the draw counter and the cell's number. -/
opaque freeCell : Nat → Nat → BigUint

/-- Content of the exponent register E where the spec leaves it unspecified (R39, R201). Free value (log 5). -/
opaque freeExponent : Nat → Word

/-- Content of one word of the multiplier's scratch where the spec leaves it unspecified (R39). Free value (log 5),
applied to the draw counter and the word's number. -/
opaque freeScratch : Nat → Nat → Word

end Sys2Proof.Config
end

