-- ==== Sys2Proof/Machine/State.lean ====
section
/-!
DEFINITION. The state of FIBCORE (10_state.md), of its host port and reset pin (20_memory.md, R230), and of the model's
own bookkeeping (the pending events and the draw counter), as plain data; the ways a step can stop; and the state after
reset (R231).
-/

namespace Sys2Proof.Machine

/-- The engine's phase (R39): STATUS.BUSY is 1 exactly when it is `busy`. -/
inductive Phase where
  | idle
  | busy
deriving DecidableEq, Repr

/-- The error codes of R200. Codes 6 to 15 are reserved and never reported. -/
inductive ErrCode where
  /-- 0: the command succeeded. -/
  | none
  /-- 1: the word spells no command. -/
  | illegalCmd
  /-- 2: LARG0 out of range (VLIMBIN, LOWDIG). -/
  | illegalOperand
  /-- 3: Fibonacci index below 1. -/
  | invalidIndex
  /-- 4: a result needs more than MAXLIMBS limbs. -/
  | capacity
  /-- 5: truncation enabled with an illegal limb count. -/
  | badConfig
deriving DecidableEq, Repr

/-- CTRL (R24). Its reserved bits read 0 and ignore writes, so only the three fields are state. -/
structure Ctrl where
  /-- CTRL[0], IRQ_EN. -/
  irqEn : Bool
  /-- CTRL[1], TRUNC_EN. -/
  truncEn : Bool
  /-- CTRL[63:32], TRUNC_LIMBS. -/
  truncLimbs : BitVec 32
deriving DecidableEq, Repr

/-- LCTRL, the CTRL fields latched at acceptance (R39, R90). -/
structure LCtrl where
  /-- TRUNC_EN as latched. -/
  truncEn : Bool
  /-- TRUNC_LIMBS as latched. -/
  truncLimbs : BitVec 32
deriving DecidableEq, Repr

/-- A 2x2 matrix (R22, R161): of big integers in storage, of natural numbers in the rules' arithmetic. -/
structure Mat (α : Type) where
  /-- Cell at row 0, column 0. -/
  c00 : α
  /-- Cell at row 0, column 1. -/
  c01 : α
  /-- Cell at row 1, column 0. -/
  c10 : α
  /-- Cell at row 1, column 1. -/
  c11 : α
deriving DecidableEq, Repr

/-- The engine's working registers (R39). No rule reads them before a command writes them, and their content between
commands is unspecified. -/
structure Work where
  /-- ACC, the exponentiation accumulator. -/
  acc : Mat BigUint
  /-- BASE, the running base. -/
  base : Mat BigUint
  /-- E, the exponent still to process. -/
  e : Word
  /-- The multiplier's scratch, 2·MAXLIMBS + 2 words. -/
  scratch : List Word
deriving DecidableEq, Repr

/-- What the host access port last answered (R60). A bus error is no answer of this kind: it stops the host program
(`Fault.busError`). -/
inductive Port where
  /-- No transaction since reset. -/
  | quiet
  /-- A write was done. -/
  | done
  /-- A read returned 64-bit data. -/
  | data (v : Word)
deriving DecidableEq, Repr

/-- One event of the total order of R69, as the outside world offers it. The list of pending events is the environment's,
not FIBCORE's: every claim over all states is a claim over all host programs, interleavings and resets (log 2). -/
inductive Event where
  /-- `MemRead(off, n)` on the host access port (R11, R60). -/
  | read (off n : Nat)
  /-- `MemWrite(off, n, v)` on the host access port (R11, R60). -/
  | write (off n : Nat) (v : Word)
  /-- The engine has the next step: its completion if it is busy (R92), nothing if it is idle. -/
  | engine
  /-- rst is asserted (R230). -/
  | assertRst
  /-- rst is released (R230). -/
  | releaseRst
deriving DecidableEq, Repr

/-- The registers of the host window (R61), by name. -/
inductive HostReg where
  | cfg0 | cfg1 | ctrl | status | arg0 | cmd | result | rdSel | rdIdx | rdLen | rdLimb | outLen | outIdx | outChar
  | reserved
deriving DecidableEq, Repr

/-- The whole machine. -/
structure State where
  /-- LIMB_DIGITS and MAXLIMBS, the constants CFG0 and CFG1 show (R5, R6, R36, R37). No step changes them. -/
  params : Config.Params
  /-- V0 to V15 (R20); M0 to M3 are views of them (R22). -/
  v : Vector BigUint 16
  /-- CTRL (R24). -/
  ctrl : Ctrl
  /-- STATUS.DONE (R25). -/
  done : Bool
  /-- STATUS.OVERRUN (R25). -/
  overrun : Bool
  /-- STATUS.ERRCODE (R25); STATUS.ERR is computed from it. -/
  errcode : ErrCode
  /-- ARG0 (R26). -/
  arg0 : Word
  /-- The CMD readback (R27). -/
  cmd : Word
  /-- RESULT (R28). -/
  result : Word
  /-- RD_SEL[3:0] (R29). -/
  rdSel : BitVec 4
  /-- RD_IDX[31:0] (R30). -/
  rdIdx : BitVec 32
  /-- OUTBUF[0..OUT_LEN-1] (R33); OUT_LEN is its length. -/
  outbuf : List Byte
  /-- OUT_IDX (R34). -/
  outIdx : Word
  /-- The engine's phase (R39); STATUS.BUSY is computed from it. -/
  phase : Phase
  /-- LCMD (R39). -/
  lcmd : Word
  /-- LARG0 (R39). -/
  larg0 : Word
  /-- LCTRL (R39). -/
  lctrl : LCtrl
  /-- ACC, BASE, E and the scratch (R39). -/
  work : Work
  /-- The level of the rst input (R60, R230). -/
  rst : Bool
  /-- The host access port's last answer (R60). -/
  port : Port
  /-- The model's own field: the events still to come, the next one first (log 2). -/
  inbox : List Event
  /-- The model's own field: how many free values have been drawn (log 3). -/
  draws : Nat
deriving DecidableEq, Repr

/-- The ways a step stops with a fault. -/
inductive Fault where
  /-- Raised by a host access of the wrong size, alignment or offset (R63): "A model treats a host access that gets a
  bus error as a fault of the host program." Safe: FIBCORE itself does not change, and nothing is claimed after it. -/
  | busError (off n : Nat)
deriving DecidableEq, Repr

/-- The ways a step is refused. -/
inductive Refusal where
  /-- Raised only by an arm of `exec` that has no meaning; there is none. Safe. -/
  | notModelled (mnemonic : String)
deriving DecidableEq, Repr

/-- The matrix with the same number in every cell. -/
def Mat.fill {α : Type} (x : α) : Mat α := { c00 := x, c01 := x, c10 := x, c11 := x }

/-- The reset state of a FIBCORE built with parameters `p` (R231). The spec leaves ACC, BASE, E and the scratch
unspecified: zero here is a DESIGN CHOICE (log 6, unsafe). `rst`, `port`, `inbox` and `draws` describe the surroundings:
reset is released, nothing has been asked and nothing drawn (log 2, log 3). -/
def State.resetWith (p : Config.Params) : State where
  params := p
  v := Vector.replicate 16 []
  ctrl := { irqEn := false, truncEn := false, truncLimbs := 0 }
  done := false
  overrun := false
  errcode := .none
  arg0 := 0
  cmd := 0
  result := 0
  rdSel := 0
  rdIdx := 0
  outbuf := []
  outIdx := 0
  phase := .idle
  lcmd := 0
  larg0 := 0
  lctrl := { truncEn := false, truncLimbs := 0 }
  work := { acc := Mat.fill [], base := Mat.fill [], e := 0, scratch := List.replicate (2 * p.maxLimbs + 2) 0 }
  rst := false
  port := .quiet
  inbox := []
  draws := 0

/-- The machine right after reset (R231), built with the standard parameters (log 1). -/
def State.reset : State := State.resetWith Config.Params.standard

end Sys2Proof.Machine
end

