-- ==== Sys2Proof/Machine/Ops.lean ====
section
/-!
DEFINITION. The named operations every meaning is built from: big-integer values (R10), register reads and writes (R11,
R20), the capacity check (R6, R168), acceptance and overrun (R90, R91), completion with and without an error (R92,
R201), reset (R230) and the host's acknowledgement of a completion (R205).
-/

namespace Sys2Proof.Machine

/-! ## Big-integer values (R10) -/

/-- `val(L) = Σ l_i · B^i` (R10). -/
def val (B : Nat) : BigUint → Nat
  | [] => 0
  | l :: ls => l.toNat + B * val B ls

/-- The base-B digits of `x`, least significant first, no top zero, as far as `fuel` reaches. -/
def digits (B : Nat) : Nat → Nat → BigUint
  | 0, _ => []
  | fuel + 1, x => if x = 0 then [] else BitVec.ofNat 32 (x % B) :: digits B fuel (x / B)

/-- `canon(x)`: the canonical limb sequence of `x` (R10). A number has at most as many base-B digits as binary ones. -/
def canon (B x : Nat) : BigUint := digits B (x.log2 + 1) x

/-- `trunc_K(x) = x mod B^K` (R10). -/
def trunc (B K x : Nat) : Nat := x % B ^ K

/-! ## Registers -/

/-- The radix of this machine (R5). -/
def State.radix (s : State) : Nat := s.params.radix

/-- `V[i]` (R11, R20). -/
def State.V (s : State) (i : VReg) : BigUint := s.v[i.toNat]'i.isLt

/-- `V[i] <- L` (R11). -/
def State.setV (i : VReg) (L : BigUint) (s : State) : State := { s with v := s.v.set i.toNat L i.isLt }

/-- The V register that holds cell `c` of matrix `k`: V[4k + c] (R22). -/
def cellReg (k : MReg) (c : Nat) : VReg := BitVec.ofNat 4 (4 * k.toNat + c)

/-- `M[k]`, the matrix view (R22). -/
def State.M (s : State) (k : MReg) : Mat BigUint where
  c00 := s.V (cellReg k 0)
  c01 := s.V (cellReg k 1)
  c10 := s.V (cellReg k 2)
  c11 := s.V (cellReg k 3)

/-- `M[k] <- R`: all four V registers (R22). -/
def State.setM (k : MReg) (R : Mat BigUint) (s : State) : State :=
  (((s.setV (cellReg k 0) R.c00).setV (cellReg k 1) R.c01).setV (cellReg k 2) R.c10).setV (cellReg k 3) R.c11

/-- `RESULT <- r` (R28, R140). -/
def State.setResult (r : Word) (s : State) : State := { s with result := r }

/-- `OUTBUF <- S; OUT_LEN <- len(S)` (R33, R142). -/
def State.setOutbuf (S : List Byte) (s : State) : State := { s with outbuf := S }

/-! ## The capacity check (R6, R168) -/

/-- `if len(L) > MAXLIMBS: raise CAPACITY`, else `L`. -/
def fit (p : Config.Params) (L : BigUint) : Except ErrCode BigUint :=
  if L.length > p.maxLimbs then .error .capacity else .ok L

/-- The check over the four cells of a matrix (R160, R168). -/
def fitMat (p : Config.Params) (R : Mat BigUint) : Except ErrCode (Mat BigUint) :=
  if R.c00.length > p.maxLimbs ∨ R.c01.length > p.maxLimbs ∨ R.c10.length > p.maxLimbs ∨ R.c11.length > p.maxLimbs
  then .error .capacity else .ok R

/-! ## Issue (R90, R91) -/

/-- Acceptance of the CMD value `w` (R90). -/
def State.accept (w : Word) (s : State) : State :=
  { s with
    lcmd := w
    larg0 := s.arg0
    lctrl := { truncEn := s.ctrl.truncEn, truncLimbs := s.ctrl.truncLimbs }
    cmd := w
    done := false
    errcode := .none
    phase := .busy }

/-- A CMD write while busy: only OVERRUN is set (R91). -/
def State.overrunSet (s : State) : State := { s with overrun := true }

/-! ## Completion (R92, R201) -/

/-- The STATUS half of a completion: `ERRCODE <- code; DONE <- 1; BUSY <- 0; phase <- IDLE` (R92). -/
def State.finish (code : ErrCode) (s : State) : State :=
  { s with errcode := code, done := true, phase := .idle }

/-- The completion of a command (R92): on success the state with all its writes, on an error the state with none of
them (R201). This is the only error entry FIBCORE has: "What a processor would call trap entry is the error completion
of rule R201" (R205). -/
def State.complete (s : State) (r : Except ErrCode State) : Host.Outcome State Fault Refusal :=
  match r with
  | .ok s' => .next (s'.finish .none)
  | .error code => .next (s.finish code)

/-- The host's acknowledgement, a write of `v` to STATUS: DONE and OVERRUN are cleared where `v` has a 1 (R25). Clearing
DONE is what R205 calls the counterpart of a trap return. -/
def State.clearStatus (v : Word) (s : State) : State :=
  { s with done := s.done && !v.getLsbD 1, overrun := s.overrun && !v.getLsbD 3 }

/-! ## Free values (R39, R68, R201) -/

/-- A matrix of the engine's unspecified content, its cells cut to MAXLIMBS limbs (R39). `first` numbers its cells. -/
def freeMat (p : Config.Params) (draw first : Nat) : Mat BigUint where
  c00 := (Config.freeCell draw first).take p.maxLimbs
  c01 := (Config.freeCell draw (first + 1)).take p.maxLimbs
  c10 := (Config.freeCell draw (first + 2)).take p.maxLimbs
  c11 := (Config.freeCell draw (first + 3)).take p.maxLimbs

/-- ACC, BASE, E and the scratch with the unspecified content of draw number `draw` (R39). -/
def freeWork (p : Config.Params) (draw : Nat) : Work where
  acc := freeMat p draw 0
  base := freeMat p draw 4
  e := Config.freeExponent draw
  scratch := (List.range (2 * p.maxLimbs + 2)).map (Config.freeScratch draw)

/-- The engine has run: its working registers hold unspecified content (R39, R201). -/
def State.drawWork (s : State) : State :=
  { s with work := freeWork s.params s.draws, draws := s.draws + 1 }

/-! ## Reset (R230, R231) and the surroundings -/

/-- The next event is taken from the pending ones. -/
def State.withInbox (es : List Event) (s : State) : State := { s with inbox := es }

/-- The host access port answers. -/
def State.respond (a : Port) (s : State) : State := { s with port := a }

/-- rst is asserted: every piece of state takes its reset value, the working registers an unspecified one (R230, R231);
a running command is abandoned. The parameters are constants, and port, pending events and draw counter are not
FIBCORE's state. -/
def State.assertReset (s : State) : State :=
  { State.resetWith s.params with
    work := freeWork s.params s.draws
    rst := true
    port := s.port
    inbox := s.inbox
    draws := s.draws + 1 }

/-- rst is released: the engine is idle and waits for the first command (R230). -/
def State.releaseReset (s : State) : State := { s with rst := false }

/-- The completion is enabled at every state with phase = BUSY (R92), but not while rst is asserted (R230). -/
def State.engineEnabled (s : State) : Bool := decide (s.phase = .busy) && !s.rst

/-- The command the engine completes: what the latched CMD value spells (R72, R86). FIBCORE fetches no instruction. -/
def State.fetch (s : State) : Except DecodeError Instr := decode s.lcmd

/-- The completion of a word that spells no command: ILLEGAL_CMD, "changes nothing but STATUS" (R85, R201). -/
def State.completeIllegal (s : State) : Host.Outcome State Fault Refusal := s.complete (.error .illegalCmd)

end Sys2Proof.Machine
end

