-- ==== Sys2Proof/Machine/Operands.lean ====
section
/-!
DEFINITION. How a command reads its operands: the V and M operands of R82 and the five readings of LARG0 in R83.
-/

namespace Sys2Proof.Machine

/-- `val(V[i])` (R11, R20). -/
def State.valV (s : State) (i : VReg) : Nat := val s.radix (s.V i)

/-- Apply a function to each cell. -/
def Mat.map {α β : Type} (f : α → β) (X : Mat α) : Mat β where
  c00 := f X.c00
  c01 := f X.c01
  c10 := f X.c10
  c11 := f X.c11

/-- The values of the cells of `M[k]` (R22). -/
def State.valM (s : State) (k : MReg) : Mat Nat := (s.M k).map (val s.radix)

/-- VCONST's value: LARG0 unsigned (R83). -/
def State.argValue (s : State) : Nat := s.larg0.toNat

/-- VLIMBIN's limb: LARG0 unsigned, legal for 0..B-1, else ILLEGAL_OPERAND (R83). -/
def State.argLimb (s : State) : Except ErrCode Nat :=
  if s.larg0.toNat ≥ s.radix then .error .illegalOperand else .ok s.larg0.toNat

/-- MPOW's exponent: LARG0 unsigned, held in the 64-bit register E (R83, R163). -/
def State.argExponent (s : State) : Word := s.larg0

/-- `sint64(v)`: v if v < 2^63, else v - 2^64 (R9). -/
def sint64 (v : Word) : Int := if v.toNat < 2 ^ 63 then (v.toNat : Int) else (v.toNat : Int) - 2 ^ 64

/-- FIB's index: `n = sint64(LARG0)`, legal for n ≥ 1, else INVALID_INDEX (R83, R180). -/
def State.argIndex (s : State) : Except ErrCode Int :=
  if sint64 s.larg0 < 1 then .error .invalidIndex else .ok (sint64 s.larg0)

/-- LOWDIG's digit count: LARG0 unsigned, legal for 0..LIMB_DIGITS, else ILLEGAL_OPERAND (R83, R140). -/
def State.argDigitCount (s : State) : Except ErrCode Nat :=
  if s.larg0.toNat > s.params.limbDigits then .error .illegalOperand else .ok s.larg0.toNat

end Sys2Proof.Machine
end

