-- ==== Sys2Proof/Machine/AddMul.lean ====
section
/-!
DEFINITION. The adder and the multiplier: VADD, VMUL (41_add_mul.md). The results are exact (R126): no truncation, no
wrap-around, CAPACITY when the result needs more than MAXLIMBS limbs.
-/

namespace Sys2Proof.Machine

/-- The sum of two limb sequences, `canon(val(a) + val(b))` (R120). -/
def addBig (B : Nat) (a b : BigUint) : BigUint := canon B (val B a + val B b)

/-- The product of two limb sequences, with the short-circuit for an empty operand (R122). -/
def mulBig (B : Nat) (a b : BigUint) : BigUint :=
  if a.length = 0 ∨ b.length = 0 then [] else canon B (val B a * val B b)

/-- `VADD vd, va, vb` (R120). -/
def execVadd (rd rs1 rs2 : VReg) (s : State) : Host.Outcome State Fault Refusal :=
  s.complete do
    let L ← fit s.params (addBig s.radix (s.V rs1) (s.V rs2))
    return s.setV rd L

/-- `VMUL vd, va, vb` (R122). -/
def execVmul (rd rs1 rs2 : VReg) (s : State) : Host.Outcome State Fault Refusal :=
  s.complete do
    let L ← fit s.params (mulBig s.radix (s.V rs1) (s.V rs2))
    return s.setV rd L

end Sys2Proof.Machine
end

