-- ==== Sys2Proof/Machine/Construct.lean ====
section
/-!
DEFINITION. Construction and data movement: NOP, VZERO, VCONST, VMOV, VLIMBIN (40_construct.md).
-/

namespace Sys2Proof.Machine

/-- `NOP` (R100): `commit {}`. -/
def execNop (s : State) : Host.Outcome State Fault Refusal := s.complete (.ok s)

/-- `VZERO vd` (R101): `V[d] <- []`. -/
def execVzero (rd : VReg) (s : State) : Host.Outcome State Fault Refusal := s.complete (.ok (s.setV rd []))

/-- `VCONST vd, #value` (R102): `V[d] <- canon(LARG0)`, CAPACITY when that has more than MAXLIMBS limbs. -/
def execVconst (rd : VReg) (s : State) : Host.Outcome State Fault Refusal :=
  s.complete do
    let L ← fit s.params (canon s.radix s.argValue)
    return s.setV rd L

/-- `VMOV vd, vs` (R103): `L <- V[s]; V[d] <- L`. -/
def execVmov (rd rs1 : VReg) (s : State) : Host.Outcome State Fault Refusal :=
  s.complete (.ok (s.setV rd (s.V rs1)))

/-- `VLIMBIN vd, #limb` (R104): `V[d] <- canon(val(V[d]) * B + LARG0)`; ILLEGAL_OPERAND when LARG0 ≥ B, then CAPACITY. -/
def execVlimbin (rd : VReg) (s : State) : Host.Outcome State Fault Refusal :=
  s.complete do
    let limb ← s.argLimb
    let L ← fit s.params (canon s.radix (s.valV rd * s.radix + limb))
    return s.setV rd L

end Sys2Proof.Machine
end

