-- ==== Sys2Proof/Machine/Matrix.lean ====
section
/-!
DEFINITION. The matrix multiplier and the exponentiation engine: MMUL, MPOW (43_matrix.md).
-/

namespace Sys2Proof.Machine

/-- `MatMul(X, Y)` over natural numbers (R161). -/
def matMul (X Y : Mat Nat) : Mat Nat where
  c00 := X.c00 * Y.c00 + X.c01 * Y.c10
  c01 := X.c00 * Y.c01 + X.c01 * Y.c11
  c10 := X.c10 * Y.c00 + X.c11 * Y.c10
  c11 := X.c10 * Y.c01 + X.c11 * Y.c11

/-- The identity matrix as limb sequences, [[[1], []], [[], [1]]] (R161). -/
def matI : Mat BigUint := { c00 := [1], c01 := [], c10 := [], c11 := [1] }

/-- The product of two stored matrices, its cells in canonical form (R160, R161). -/
def mulMatBig (B : Nat) (X Y : Mat BigUint) : Mat BigUint :=
  (matMul (X.map (val B)) (Y.map (val B))).map (canon B)

/-- `MMUL md, ma, mb` (R160). An M field above 3 spells no command and ends with ILLEGAL_CMD (R82, R85). -/
def execMmul (rd rs1 rs2 : MReg) (s : State) : Host.Outcome State Fault Refusal :=
  if mfieldOk rd && mfieldOk rs1 && mfieldOk rs2 then
    s.complete do
      let R ← fitMat s.params (mulMatBig s.radix (s.M rs1) (s.M rs2))
      return s.setM rd R
  else s.completeIllegal

/-! ## Truncation (R166 to R168) -/

/-- The check of R167: TRUNC_EN = 1 with TRUNC_LIMBS = 0 or TRUNC_LIMBS > MAXLIMBS. -/
def truncConfigBad (p : Config.Params) (t : LCtrl) : Bool :=
  t.truncEn && (decide (t.truncLimbs.toNat = 0) || decide (t.truncLimbs.toNat > p.maxLimbs))

/-- `if LCTRL.TRUNC_EN = 1: x <- trunc_K(x)` (R166, R180). -/
def truncValue (B : Nat) (t : LCtrl) (x : Nat) : Nat :=
  if t.truncEn then trunc B t.truncLimbs.toNat x else x

/-- `Trunc(X)` for a matrix whose cells are to be stored: each cell reduced and canonical (R166). -/
def truncMat (B : Nat) (t : LCtrl) (X : Mat Nat) : Mat BigUint := X.map fun x => canon B (truncValue B t x)

/-- `Store(X)`: truncate, then check the capacity of every cell (R168). -/
def store (p : Config.Params) (t : LCtrl) (X : Mat Nat) : Except ErrCode (Mat BigUint) :=
  fitMat p (truncMat p.radix t X)

/-! ## The engine (R163) -/

/-- `MatMul` of two matrices the engine holds (R163, R168). -/
def engineProduct (p : Config.Params) (X Y : Mat BigUint) : Mat Nat := matMul (X.map (val p.radix)) (Y.map (val p.radix))

/-- The loop of R163 with its three registers, for at most `fuel` iterations: fold when E[0] = 1, always square, shift,
stop when E = 0. -/
def powLoop (p : Config.Params) (t : LCtrl) : Nat → Mat BigUint → Mat BigUint → Word → Except ErrCode (Mat BigUint)
  | 0, acc, _, _ => .ok acc
  | fuel + 1, acc, base, e =>
    if e = 0 then .ok acc
    else do
      let acc' ← if e.getLsbD 0 then store p t (engineProduct p acc base) else .ok acc
      let base' ← store p t (engineProduct p base base)
      powLoop p t fuel acc' base' (e >>> 1)

/-- `PowLoop(X, e)` (R163): E has 64 bits, so 64 iterations always suffice. -/
def powMat (p : Config.Params) (t : LCtrl) (X : Mat BigUint) (e : Word) : Except ErrCode (Mat BigUint) :=
  powLoop p t 64 matI X e

/-! ## The engine's products, counted (R164) -/

/-- How many products the engine has computed: folds and squarings (R164). -/
structure ProductCount where
  /-- Products of ACC and BASE. -/
  folds : Nat
  /-- Products of BASE and itself. -/
  squarings : Nat
deriving DecidableEq, Repr

/-- All products computed. -/
def ProductCount.total (n : ProductCount) : Nat := n.folds + n.squarings

/-- One fold of R163, stored by R168 and counted, whether or not it fits. -/
def countedFold (p : Config.Params) (t : LCtrl) (n : ProductCount) (acc base : Mat BigUint) :
    ProductCount × Except ErrCode (Mat BigUint) :=
  ({ n with folds := n.folds + 1 }, store p t (engineProduct p acc base))

/-- One squaring of R163, stored by R168 and counted, whether or not it fits. -/
def countedSquare (p : Config.Params) (t : LCtrl) (n : ProductCount) (base : Mat BigUint) :
    ProductCount × Except ErrCode (Mat BigUint) :=
  ({ n with squarings := n.squarings + 1 }, store p t (engineProduct p base base))

/-- The loop of R163 carrying a counter, which only a computed product advances. Its result is that of `powLoop`, as the
statement on R164 says. -/
def powLoopCounted (p : Config.Params) (t : LCtrl) :
    Nat → ProductCount → Mat BigUint → Mat BigUint → Word → ProductCount × Except ErrCode (Mat BigUint)
  | 0, n, acc, _, _ => (n, .ok acc)
  | fuel + 1, n, acc, base, e =>
    if e = 0 then (n, .ok acc)
    else
      match (if e.getLsbD 0 then countedFold p t n acc base else (n, .ok acc)) with
      | (n', .error code) => (n', .error code)
      | (n', .ok acc') =>
        match countedSquare p t n' base with
        | (n'', .error code) => (n'', .error code)
        | (n'', .ok base') => powLoopCounted p t fuel n'' acc' base' (e >>> 1)

/-- How many products `PowLoop(X, e)` computes (R164), up to its first error if it has one. -/
def powProducts (p : Config.Params) (t : LCtrl) (X : Mat BigUint) (e : Word) : ProductCount :=
  (powLoopCounted p t 64 { folds := 0, squarings := 0 } matI X e).1

/-- The error code of `check rule R167`, before any other work. -/
def checkTrunc (p : Config.Params) (t : LCtrl) : Except ErrCode Unit :=
  if truncConfigBad p t then .error .badConfig else .ok ()

/-- `MPOW md, ma, #e` (R162): BAD_CONFIG by R167, CAPACITY by R168; the engine's working registers are left unspecified
(R39). An M field above 3 spells no command and ends with ILLEGAL_CMD (R82, R85). -/
def execMpow (rd rs1 : MReg) (s : State) : Host.Outcome State Fault Refusal :=
  if mfieldOk rd && mfieldOk rs1 then
    s.drawWork.complete do
      checkTrunc s.params s.lctrl
      let P ← powMat s.params s.lctrl (s.M rs1) s.argExponent
      return s.drawWork.setM rd P
  else s.completeIllegal

end Sys2Proof.Machine
end

