-- ==== Sys2Proof/Machine/Fibonacci.lean ====
section
/-!
DEFINITION. The Fibonacci command (44_fibonacci.md).
-/

namespace Sys2Proof.Machine

/-- Q = [[1, 1], [1, 0]] as limb sequences (R180). -/
def matQ : Mat BigUint := { c00 := [1], c01 := [1], c10 := [1], c11 := [] }

/-- The number FIB stores for an index n ≥ 1 (R180): 1 for n = 1 and n = 2, which bypass the engine; else
P[0][0] + P[0][1] for P = PowLoop(Q, n - 2), truncated when truncation is on. -/
def fibNumber (p : Config.Params) (t : LCtrl) (n : Int) : Except ErrCode Nat :=
  if n = 1 ∨ n = 2 then .ok 1
  else do
    let P ← powMat p t matQ (BitVec.ofInt 64 (n - 2))
    return truncValue p.radix t (val p.radix P.c00 + val p.radix P.c01)

/-- `FIB vd, #n` (R180): BAD_CONFIG, then INVALID_INDEX, then CAPACITY (R202); the engine's working registers are left
unspecified (R39); M registers are neither read nor written (R182). -/
def execFib (rd : VReg) (s : State) : Host.Outcome State Fault Refusal :=
  s.drawWork.complete do
    checkTrunc s.params s.lctrl
    let n ← s.argIndex
    let x ← fibNumber s.params s.lctrl n
    let L ← fit s.params (canon s.radix x)
    return s.drawWork.setV rd L

end Sys2Proof.Machine
end

