-- ==== Sys2Proof/Machine/Output.lean ====
section
/-!
DEFINITION. The output commands: LOWDIG, DECSTR (42_output.md).
-/

namespace Sys2Proof.Machine

/-- The byte of a decimal digit, 0x30 + d (R141). -/
def digitChar (d : Nat) : Byte := BitVec.ofNat 8 (0x30 + d)

/-- The decimal digits of `x`, least significant first, no top zero, as far as `fuel` reaches. -/
def decimalDigits : Nat → Nat → List Nat
  | 0, _ => []
  | fuel + 1, x => if x = 0 then [] else (x % 10) :: decimalDigits fuel (x / 10)

/-- `decimal(x)`, "the shortest decimal spelling of x (decimal(0) = "0")" (R142). -/
def decimal (x : Nat) : List Byte :=
  if x = 0 then [digitChar 0] else ((decimalDigits (x.log2 + 1) x).map digitChar).reverse

/-- `pad(t, w)`: t prefixed with '0' until its length is w (R142). -/
def pad (t : List Byte) (w : Nat) : List Byte := List.replicate (w - t.length) (digitChar 0) ++ t

/-- The decimal string of a limb sequence: "most-significant limb printed without padding, every subsequent limb printed
zero-padded to the fixed limb width", the empty sequence as "0" (R142). The limbs are taken from the top down (R143). -/
def decimalString (limbDigits : Nat) (L : BigUint) : List Byte :=
  match L.reverse with
  | [] => [digitChar 0]
  | top :: lower => decimal top.toNat ++ lower.flatMap fun l => pad (decimal l.toNat) limbDigits

/-- The least-significant limb modulo 10^k, 0 for the empty sequence (R140). -/
def lowDigits (L : BigUint) (k : Nat) : Nat :=
  match L with
  | [] => 0
  | l :: _ => l.toNat % 10 ^ k

/-- `LOWDIG vs, #k` (R140): ILLEGAL_OPERAND when k > LIMB_DIGITS. -/
def execLowdig (rs1 : VReg) (s : State) : Host.Outcome State Fault Refusal :=
  s.complete do
    let k ← s.argDigitCount
    return s.setResult (BitVec.ofNat 64 (lowDigits (s.V rs1) k))

/-- `DECSTR vs` (R142). -/
def execDecstr (rs1 : VReg) (s : State) : Host.Outcome State Fault Refusal :=
  s.complete (.ok (s.setOutbuf (decimalString s.params.limbDigits (s.V rs1))))

end Sys2Proof.Machine
end

