-- ==== Sys2Proof/Machine/Dispatch.lean ====
section
/-!
DEFINITION. The completion of a decoded command (R92): one arm per command of R84.
-/

namespace Sys2Proof.Machine

/-- `Execute` and completion for a decoded command, at the latched LARG0 and LCTRL (R92). -/
def exec (i : Instr) (s : State) : Host.Outcome State Fault Refusal :=
  match i with
  | .nop => Sys2Proof.Machine.execNop s
  | .vzero rd => Sys2Proof.Machine.execVzero rd s
  | .vconst rd => Sys2Proof.Machine.execVconst rd s
  | .vmov rd rs1 => Sys2Proof.Machine.execVmov rd rs1 s
  | .vlimbin rd => Sys2Proof.Machine.execVlimbin rd s
  | .vadd rd rs1 rs2 => Sys2Proof.Machine.execVadd rd rs1 rs2 s
  | .vmul rd rs1 rs2 => Sys2Proof.Machine.execVmul rd rs1 rs2 s
  | .mmul rd rs1 rs2 => Sys2Proof.Machine.execMmul rd rs1 rs2 s
  | .mpow rd rs1 => Sys2Proof.Machine.execMpow rd rs1 s
  | .fib rd => Sys2Proof.Machine.execFib rd s
  | .lowdig rs1 => Sys2Proof.Machine.execLowdig rs1 s
  | .decstr rs1 => Sys2Proof.Machine.execDecstr rs1 s

end Sys2Proof.Machine
end

