-- ==== Sys2Proof/Machine/Flags.lean ====
section
/-!
DEFINITION. The status flags (R25), the CTRL word (R24) and the interrupt line (R38, R206).
-/

namespace Sys2Proof.Machine

/-- STATUS.BUSY: 1 exactly when phase = BUSY (R25, R39). -/
def State.busy (s : State) : Bool := decide (s.phase = .busy)

/-- The 4-bit value of an error code (R200). -/
def ErrCode.number : ErrCode → BitVec 4
  | .none => 0
  | .illegalCmd => 1
  | .illegalOperand => 2
  | .invalidIndex => 3
  | .capacity => 4
  | .badConfig => 5

/-- STATUS.ERR: "Always equal to (ERRCODE ≠ 0)" (R25). -/
def State.err (s : State) : Bool := decide (s.errcode.number ≠ 0)

/-- STATUS as the host reads it (R25). -/
def State.statusWord (s : State) : Word :=
  (0 : BitVec 52) ++ s.errcode.number ++ (0 : BitVec 4) ++ BitVec.ofBool s.overrun ++ BitVec.ofBool s.err ++
    BitVec.ofBool s.done ++ BitVec.ofBool s.busy

/-- CTRL as the host reads it (R24). -/
def Ctrl.word (c : Ctrl) : Word :=
  c.truncLimbs ++ (0 : BitVec 30) ++ BitVec.ofBool c.truncEn ++ BitVec.ofBool c.irqEn

/-- The fields a write of `w` to CTRL stores (R24). -/
def ctrlOfWord (w : Word) : Ctrl where
  irqEn := w.getLsbD 0
  truncEn := w.getLsbD 1
  truncLimbs := w.extractLsb' 32 32

/-- The interrupt is pending while STATUS.DONE = 1 (R206). -/
def State.irqPending (s : State) : Bool := s.done

/-- The irq output: `STATUS.DONE and CTRL.IRQ_EN` (R38). -/
def State.irq (s : State) : Bool := s.irqPending && s.ctrl.irqEn

end Sys2Proof.Machine
end

