-- ==== Sys2Proof/Machine/Window.lean ====
section
/-!
DEFINITION. The host's register window (20_memory.md; R24 to R37): which register an offset names, what a read returns,
what a write does, and the host access port.
-/

namespace Sys2Proof.Machine

/-- The register at an aligned offset below 0x100 (R61); 0x70 to 0xF8 are reserved (R65). -/
def regAt (off : Nat) : HostReg :=
  match off with
  | 0x00 => .cfg0
  | 0x08 => .cfg1
  | 0x10 => .ctrl
  | 0x18 => .status
  | 0x20 => .arg0
  | 0x28 => .cmd
  | 0x30 => .result
  | 0x38 => .rdSel
  | 0x40 => .rdIdx
  | 0x48 => .rdLen
  | 0x50 => .rdLimb
  | 0x58 => .outLen
  | 0x60 => .outIdx
  | 0x68 => .outChar
  | _ => .reserved

/-- CFG0: RADIX in bits 63:32, NUM_VREGS = 16 in bits 15:8, LIMB_DIGITS in bits 7:0 (R36). -/
def cfg0Word (p : Config.Params) : Word :=
  BitVec.ofNat 32 p.radix ++ (0 : BitVec 16) ++ (16 : BitVec 8) ++ BitVec.ofNat 8 p.limbDigits

/-- CFG1: MAXLIMBS in bits 31:0 (R37). -/
def cfg1Word (p : Config.Params) : Word := (0 : BitVec 32) ++ BitVec.ofNat 32 p.maxLimbs

/-- RD_LIMB: limb RD_IDX of V[RD_SEL], 0 beyond its length (R32). -/
def State.rdLimb (s : State) : Word :=
  match (s.V s.rdSel)[s.rdIdx.toNat]? with
  | some l => l.setWidth 64
  | none => 0

/-- OUT_CHAR: the byte of OUTBUF at OUT_IDX, 0 beyond OUT_LEN (R35). -/
def State.outChar (s : State) : Word :=
  match s.outbuf[s.outIdx.toNat]? with
  | some b => b.setWidth 64
  | none => 0

/-- The exact content of a host register (R24 to R37); reserved offsets read 0 (R65). -/
def State.readReg (s : State) : HostReg → Word
  | .cfg0 => cfg0Word s.params
  | .cfg1 => cfg1Word s.params
  | .ctrl => s.ctrl.word
  | .status => s.statusWord
  | .arg0 => s.arg0
  | .cmd => s.cmd
  | .result => s.result
  | .rdSel => s.rdSel.setWidth 64
  | .rdIdx => s.rdIdx.setWidth 64
  | .rdLen => BitVec.ofNat 64 (s.V s.rdSel).length
  | .rdLimb => s.rdLimb
  | .outLen => BitVec.ofNat 64 s.outbuf.length
  | .outIdx => s.outIdx
  | .outChar => s.outChar
  | .reserved => 0

/-- The registers whose reads return any value while BUSY (R68). -/
def drawnWhileBusy : HostReg → Bool
  | .result | .rdLen | .rdLimb | .outLen | .outChar => true
  | .cfg0 | .cfg1 | .ctrl | .status | .arg0 | .cmd | .rdSel | .rdIdx | .outIdx | .reserved => false

/-- A write of `w` to a host register (R24 to R37, R66): a CMD write issues a command (R90) or overruns (R91), a STATUS
write acknowledges (R25), writes to read-only registers and reserved offsets are ignored (R65, R66). -/
def State.writeReg (s : State) (r : HostReg) (w : Word) : State :=
  match r with
  | .ctrl => { s with ctrl := ctrlOfWord w }
  | .status => s.clearStatus w
  | .arg0 => { s with arg0 := w }
  | .cmd =>
    match s.phase with
    | .idle => s.accept w
    | .busy => s.overrunSet
  | .rdSel => { s with rdSel := w.extractLsb' 0 4 }
  | .rdIdx => { s with rdIdx := w.extractLsb' 0 32 }
  | .outIdx => { s with outIdx := w }
  | .cfg0 | .cfg1 | .result | .rdLen | .rdLimb | .outLen | .outChar | .reserved => s

/-- The only defined transaction: 8 bytes at a multiple of 8 below 0x100 (R63). -/
def accessOk (off n : Nat) : Bool := decide (n = 8) && decide (off % 8 = 0) && decide (off < 0x100)

/-- `MemRead(off, n)` (R60). While rst is asserted it returns 0 (R230; log 7). Otherwise an undefined transaction is a
bus error (R63); RESULT, RD_LEN, RD_LIMB, OUT_LEN and OUT_CHAR give a free value while BUSY (R68); every other read is
exact and without side effect (R66). -/
def State.hostRead (off n : Nat) (s : State) : Host.Outcome State Fault Refusal :=
  if s.rst then .next (s.respond (.data 0))
  else if !accessOk off n then .fault (.busError off n)
  else if s.busy && drawnWhileBusy (regAt off) then
    .next { s with port := .data (Config.freeRead s.draws), draws := s.draws + 1 }
  else .next (s.respond (.data (s.readReg (regAt off))))

/-- `MemWrite(off, n, w)` (R60). While rst is asserted it is ignored (R230; log 7). Otherwise an undefined transaction is
a bus error and the write is not performed (R63). -/
def State.hostWrite (off n : Nat) (w : Word) (s : State) : Host.Outcome State Fault Refusal :=
  if s.rst then .next (s.respond .done)
  else if !accessOk off n then .fault (.busError off n)
  else .next ((s.writeReg (regAt off) w).respond .done)

/-- The byte at offset `off + i` of a register that holds `w`: bits[8i+7:8i], little-endian (R64). -/
def busByte (w : Word) (i : Nat) : Byte := w.extractLsb' (8 * i) 8

end Sys2Proof.Machine
end

