-- ==== Sys2Proof/Machine/Step.lean ====
section
/-!
DEFINITION. One step of the total order of R69: a host transaction, a completion, or a change of rst.
-/

namespace Sys2Proof.Machine

/-- The engine's one step (R92): the completion of the latched command where it is enabled, nothing where the engine is
idle or held in reset. -/
def State.runEngine (s : State) : Host.Outcome State Fault Refusal :=
  if s.engineEnabled then
    match s.fetch with
    | .error _ => s.completeIllegal
    | .ok i => exec i s
  else .next s

/-- The next step of the total order (R69). With no event pending the engine has the step, so a continuously enabled
completion is taken (R240). -/
def step (s : State) : Host.Outcome State Fault Refusal :=
  match s.inbox with
  | [] => s.runEngine
  | .engine :: rest => (s.withInbox rest).runEngine
  | .read off n :: rest => (s.withInbox rest).hostRead off n
  | .write off n w :: rest => (s.withInbox rest).hostWrite off n w
  | .assertRst :: rest => .next (s.withInbox rest).assertReset
  | .releaseRst :: rest => .next (s.withInbox rest).releaseReset

/-- `s` with the CMD value whose low `nbits` bits are those of `w` accepted (R90) and the next step given to the engine,
so that the very next step completes exactly that command (log 8). -/
def State.withFetchWord (s : State) (nbits w : Nat) : State :=
  let t := (s.accept (BitVec.ofNat 64 (w % 2 ^ nbits))).releaseReset
  match s.inbox with
  | [] => t
  | es => t.withInbox (.engine :: es)

end Sys2Proof.Machine
end

