-- ==== Sys2Proof/Machine/Limbs.lean ====
section
/-!
DEFINITION. The source's limb-level algorithms for Add and Multiply (R121, R123), over the 64-bit accumulator of R7 with
its wrap-around arithmetic. They are informative: VADD and VMUL are defined by R120 and R122. That they agree with those
rules, so that nothing overflows (R8), is stated in the obligations.
-/

namespace Sys2Proof.Machine

/-- A limb in the 64-bit accumulator (R7). -/
def wide (l : Limb) : Word := l.setWidth 64

/-- A cell of the accumulator as a stored limb (R7). -/
def narrow (w : Word) : Limb := w.setWidth 32

/-- The loop of R121 once one input has no limbs left: the other's limbs and the carry, then the carry alone while it is
not 0. -/
def addTail (B : Word) : Word → BigUint → BigUint
  | carry, [] => canon B.toNat carry.toNat
  | carry, a :: as => narrow ((carry + wide a) % B) :: addTail B ((carry + wide a) / B) as

/-- The loop of R121: emit `s mod B`, carry forward `s div B`. -/
def addLoop (B : Word) : Word → BigUint → BigUint → BigUint
  | carry, [], bs => addTail B carry bs
  | carry, a :: as, [] => addTail B carry (a :: as)
  | carry, a :: as, b :: bs =>
    narrow ((carry + wide a + wide b) % B) :: addLoop B ((carry + wide a + wide b) / B) as bs

/-- The source's Add (R121), with its short-circuit for an empty operand. -/
def addAlgorithm (B : Nat) (a b : BigUint) : BigUint :=
  if a.length = 0 then b else if b.length = 0 then a else addLoop (BitVec.ofNat 64 B) 0 a b

/-- Add `x` to the first cell and normalise upward: "while the cell at the current position is ≥ B, move `cell div B`
into the next higher cell and reduce the current cell modulo B" (R123). -/
def carryUp (B : Word) : Word → List Word → List Word
  | _, [] => []
  | x, c :: cs => if B ≤ c + x then ((c + x) % B) :: carryUp B ((c + x) / B) cs else (c + x) :: cs

/-- The accumulation at position `p` of the scratch, with its normalisation (R123). -/
def accumulate (B : Word) : Nat → Word → List Word → List Word
  | 0, x, cs => carryUp B x cs
  | _ + 1, _, [] => []
  | p + 1, x, c :: cs => c :: accumulate B p x cs

/-- The inner loop of R123: limb `a` at position `p` against the limbs of the other operand, from position `p` up. -/
def mulRow (B : Word) (a : Limb) : Nat → BigUint → List Word → List Word
  | _, [], T => T
  | p, b :: bs, T => mulRow B a (p + 1) bs (accumulate B p (wide a * wide b) T)

/-- The outer loop of R123. -/
def mulRows (B : Word) (b : BigUint) : Nat → BigUint → List Word → List Word
  | _, [], T => T
  | p, a :: as, T => mulRows B b (p + 1) as (mulRow B a p b T)

/-- "Trim trailing zero cells" (R123). -/
def trimCells (T : List Word) : List Word := (T.reverse.dropWhile fun w => decide (w = 0)).reverse

/-- The source's Multiply (R123), with `slack` more scratch cells than the two lengths need. -/
def mulAlgorithm (B slack : Nat) (a b : BigUint) : BigUint :=
  if a.length = 0 ∨ b.length = 0 then []
  else (trimCells (mulRows (BitVec.ofNat 64 B) b 0 a (List.replicate (a.length + b.length + slack) 0))).map narrow

end Sys2Proof.Machine
end

