-- ==== Sys2Proof/Safety.lean ====
section
/-!
DEFINITION. The words the claims are made in: canonical registers (R21), the invariant of every reachable state, which
events are harmless, which state a command may change, matrix powers, bit counts.
-/

namespace Sys2Proof.Machine

/-! ## Canonical registers (R21) -/

/-- A canonical limb sequence that fits a register: every limb below B, no top zero limb, at most MAXLIMBS limbs
(R20, R21). -/
def canonicalBig (p : Config.Params) (L : BigUint) : Bool :=
  L.all (fun l => decide (l.toNat < p.radix)) && decide (L.getLast? ≠ some 0) && decide (L.length ≤ p.maxLimbs)

/-- Every V register is canonical (R21). -/
def State.canonical (s : State) : Bool := s.v.toList.all (canonicalBig s.params)

/-- The parameters are in their ranges and every V register is canonical: what every command relies on. -/
structure State.Sound (s : State) : Prop where
  /-- R5, R6. -/
  params_wf : s.params.wf = true
  /-- R21. -/
  canonical : s.canonical = true

/-- The cells of a matrix of the engine's working registers have the storage of R39. -/
def Mat.sized (p : Config.Params) (X : Mat BigUint) : Bool :=
  decide (X.c00.length ≤ p.maxLimbs) && decide (X.c01.length ≤ p.maxLimbs) &&
    decide (X.c10.length ≤ p.maxLimbs) && decide (X.c11.length ≤ p.maxLimbs)

/-- The invariant of FIBCORE, kept by every step from every state that has it. -/
structure State.Inv (s : State) : Prop where
  /-- LIMB_DIGITS and MAXLIMBS are in their ranges (R5, R6). -/
  params_wf : s.params.wf = true
  /-- Every V register holds a canonical limb sequence of at most MAXLIMBS limbs (R20, R21). -/
  canonical : s.canonical = true
  /-- OUTBUF holds at most OUTCAP characters (R33). -/
  outbuf_fits : s.outbuf.length ≤ s.params.outCap
  /-- Every character of OUTBUF is a decimal digit (R141). -/
  outbuf_digits : ∀ c ∈ s.outbuf, 0x30 ≤ c.toNat ∧ c.toNat ≤ 0x39
  /-- While a command runs, DONE and ERRCODE are clear and the CMD readback is the running command (R25, R27, R90). -/
  busy_status : s.phase = .busy → s.done = false ∧ s.errcode = .none ∧ s.cmd = s.lcmd
  /-- ACC, BASE and the scratch have the storage of R39. -/
  work_sized : s.work.acc.sized s.params = true ∧ s.work.base.sized s.params = true ∧
    s.work.scratch.length = 2 * s.params.maxLimbs + 2
  /-- While rst is asserted every piece of state but the unspecified working registers is at its reset value (R230). -/
  held_in_reset : s.rst = true →
    s = { State.resetWith s.params with
          work := s.work, rst := true, port := s.port, inbox := s.inbox, draws := s.draws }

/-! ## Events -/

/-- The host access of an event, if it is one, is a defined transaction (R63). -/
def Event.accessDefined : Event → Bool
  | .read off n => accessOk off n
  | .write off n _ => accessOk off n
  | .engine | .assertRst | .releaseRst => true

/-- The event does not assert rst. -/
def Event.keepsRunning : Event → Bool
  | .assertRst => false
  | .read _ _ | .write _ _ _ | .engine | .releaseRst => true

/-- The engine has the next step: no event is pending, or the next one is the engine's (R69, R240). -/
def State.engineNext (s : State) : Bool :=
  match s.inbox with
  | [] => true
  | .engine :: _ => true
  | .read _ _ :: _ | .write _ _ _ :: _ | .assertRst :: _ | .releaseRst :: _ => false

/-- The state once the next event has been taken. -/
def State.popped (s : State) : State := s.withInbox s.inbox.tail

/-! ## What a command may change (R23) -/

/-- The V registers a command writes when it succeeds (R23). -/
def destRegs : Instr → List VReg
  | .nop | .lowdig _ | .decstr _ => []
  | .vzero rd | .vconst rd | .vmov rd _ | .vlimbin rd | .vadd rd _ _ | .vmul rd _ _ | .fib rd => [rd]
  | .mmul rd _ _ | .mpow rd _ => [cellReg rd 0, cellReg rd 1, cellReg rd 2, cellReg rd 3]

/-- The commands that use the exponentiation engine, and so leave ACC, BASE, E and the scratch unspecified (R39). -/
def usesEngine : Instr → Bool
  | .mpow rd rs1 => mfieldOk rd && mfieldOk rs1
  | .fib _ => true
  | .nop | .vzero _ | .vconst _ | .vmov _ _ | .vlimbin _ | .vadd _ _ _ | .vmul _ _ _ | .mmul _ _ _ | .lowdig _
  | .decstr _ => false

/-- The truncation setting an engine command was accepted with is legal (R167). -/
def State.truncLegal (s : State) : Prop :=
  s.lctrl.truncEn = true → 1 ≤ s.lctrl.truncLimbs.toNat ∧ s.lctrl.truncLimbs.toNat ≤ s.params.maxLimbs

/-- `t` is `s` after a completion with code `c` (R92): STATUS shows the code and DONE, the engine is idle, and nothing
else differs but the V registers, which a statement using this describes apart. -/
def CompletesV (c : ErrCode) (s t : State) : Prop :=
  t = { s with v := t.v, errcode := c, done := true, phase := .idle }

/-- `CompletesV` for a command of the exponentiation engine: the working registers, whose content is unspecified (R39),
may differ too, and with them the draw counter. -/
def CompletesEngine (c : ErrCode) (s t : State) : Prop :=
  t = { s with v := t.v, errcode := c, done := true, phase := .idle, work := t.work, draws := t.draws }

/-- The V register `d` holds the canonical limb sequence of the number `x` (R10, R21). -/
def State.holds (t : State) (d : VReg) (x : Nat) : Prop :=
  canonicalBig t.params (t.V d) = true ∧ t.valV d = x

/-- The four cells of `M[d]` hold the canonical limb sequences of the cells of `X` (R22). -/
def State.holdsMat (t : State) (d : MReg) (X : Mat Nat) : Prop :=
  t.holds (cellReg d 0) X.c00 ∧ t.holds (cellReg d 1) X.c01 ∧ t.holds (cellReg d 2) X.c10 ∧ t.holds (cellReg d 3) X.c11

/-- Every V register but `d` is as it was. -/
def SameVBut (d : VReg) (s t : State) : Prop := ∀ i : VReg, i ≠ d → t.V i = s.V i

/-- Every V register but the cells of `M[d]` is as it was. -/
def SameVButM (d : MReg) (s t : State) : Prop :=
  ∀ i : VReg, i ≠ cellReg d 0 → i ≠ cellReg d 1 → i ≠ cellReg d 2 → i ≠ cellReg d 3 → t.V i = s.V i

/-- A number fits a register: it is below B^MAXLIMBS, so its canonical form has at most MAXLIMBS limbs (R10). -/
def State.fitsReg (s : State) (x : Nat) : Prop := x < s.radix ^ s.params.maxLimbs

/-- The limbs of a big integer shifted in one by one, each by a VLIMBIN that raises no error, most significant first
(R105). -/
def loadLimbs (d : VReg) : List Word → State → Option State
  | [], s => some s
  | l :: ls, s =>
    match exec (.vlimbin d) { s with larg0 := l } with
    | .next t => if t.errcode = .none then loadLimbs d ls t else none
    | .fault _ => none
    | .refused _ => none

/-- The characters of OUTBUF (R33, R141). -/
def State.outText (s : State) : List Char := s.outbuf.map fun c => Char.ofNat c.toNat

/-! ## Matrix powers and sizes (R161, R165) -/

/-- The identity matrix over natural numbers (R161). -/
def natI : Mat Nat := { c00 := 1, c01 := 0, c10 := 0, c11 := 1 }

/-- X^n as the product of n copies of X (R165). -/
def matPow (X : Mat Nat) : Nat → Mat Nat
  | 0 => natI
  | n + 1 => matMul (matPow X n) X

/-- Every cell of X is below B^MAXLIMBS, so that its canonical form fits a register (R10, R168). -/
def Mat.fitsIn (p : Config.Params) (X : Mat Nat) : Prop :=
  X.c00 < p.radix ^ p.maxLimbs ∧ X.c01 < p.radix ^ p.maxLimbs ∧
    X.c10 < p.radix ^ p.maxLimbs ∧ X.c11 < p.radix ^ p.maxLimbs

/-- Q = [[1, 1], [1, 0]] over natural numbers (R180). -/
def natQ : Mat Nat := { c00 := 1, c01 := 1, c10 := 1, c11 := 0 }

/-- How many bits a number needs, `bitlen` of R163. -/
def bitlen (e : Nat) : Nat := if e = 0 then 0 else e.log2 + 1

/-- How many bits of a 64-bit exponent are set, `popcount` of R164. -/
def popcount (e : Word) : Nat := (List.range 64).countP e.getLsbD

end Sys2Proof.Machine
end

