-- ==== Sys2Proof/Certificates/Slice0/Obligations.lean ====
section
/-!
DEFINITION. The statements for the provers. Each one's docstring names the rule of spec/ it formalises. Where a statement
says "for every state", it holds in states no run reaches too; `State.Sound` (legal parameters, canonical registers) is
the premise of every statement about a value, and `EveryStepKeepsTheInvariant` keeps it.
-/

open Sys2Proof Sys2Proof.Machine

/-! ## Encoding (R80 to R86) -/

/-- R81, R84, R86, R87: every well-formed command is decoded from its own word. -/
def Obligations.DecodeOfEncodedCommandIsThatCommand : Prop :=
  ∀ i : Instr, i.wf = true → decode (encode i) = .ok i

/-- R84, R86: a word that decodes gives a well-formed command and is that command's word; no bit is dropped. -/
def Obligations.DecodedWordIsTheCommandsEncoding : Prop :=
  ∀ (w : Word) (i : Instr), decode w = .ok i → i.wf = true ∧ encode i = w

/-- R84: "A word w spells a command of this table exactly when `(w and mask) = match` for that command's row". -/
def Obligations.WordSpellsCommandExactlyOnMaskMatch : Prop :=
  ∀ (w : Word) (o : Opcode), (∃ i, decode w = .ok i ∧ i.opcode = o) ↔ w &&& o.tableMask = o.tableMatch

/-- R85: which 64-bit values are illegal, said by arithmetic on the value; and at the engine's step each of them
completes with ILLEGAL_CMD, with STATUS (and the phase) the only change. -/
def Obligations.IllegalWordsCompleteWithIllegalCmdAndChangeOnlyStatus : Prop :=
  (∀ w : Word, (∃ i, decode w = .ok i) ↔
    (w.toNat / 2 ^ 20 = 0 ∧
      let op := w.toNat % 256
      let rd := w.toNat / 2 ^ 8 % 16
      let rs1 := w.toNat / 2 ^ 12 % 16
      let rs2 := w.toNat / 2 ^ 16 % 16
      (op = 0x00 ∧ rd = 0 ∧ rs1 = 0 ∧ rs2 = 0) ∨
      (op ∈ [0x01, 0x02, 0x04, 0x30] ∧ rs1 = 0 ∧ rs2 = 0) ∨
      (op = 0x03 ∧ rs2 = 0) ∨
      op ∈ [0x10, 0x11] ∨
      (op = 0x20 ∧ rd ≤ 3 ∧ rs1 ≤ 3 ∧ rs2 ≤ 3) ∨
      (op = 0x21 ∧ rd ≤ 3 ∧ rs1 ≤ 3 ∧ rs2 = 0) ∨
      (op ∈ [0x40, 0x41] ∧ rd = 0 ∧ rs2 = 0))) ∧
  (∀ s : State, s.engineNext = true → s.phase = .busy → s.rst = false → (∀ i, decode s.lcmd ≠ .ok i) →
    step s = .next { s.popped with errcode := .illegalCmd, done := true, phase := .idle })

/-- R84, R87: words written out from the encoding table decode to their commands (a sanity statement). -/
def Obligations.SampleWordsDecode : Prop :=
  decode 0x00000501 = .ok (.vzero 5) ∧ decode 0x00001203 = .ok (.vmov 2 1) ∧
  decode 0x00010210 = .ok (.vadd 2 0 1) ∧ decode 0x00010220 = .ok (.mmul 2 0 1) ∧
  decode 0x00001221 = .ok (.mpow 2 1) ∧ decode 0x00000830 = .ok (.fib 8) ∧ decode 0x00001040 = .ok (.lowdig 1)

/-! ## Issue and completion (R90 to R92, R240) -/

/-- R92: where the engine has the next step, is busy and not in reset, and the latched CMD value decodes to `i`, the step
is `exec i` of the state with that event taken. -/
def Obligations.StepCompletesTheDecodedCommand : Prop :=
  ∀ (s : State) (i : Instr), s.engineNext = true → s.phase = .busy → s.rst = false → decode s.lcmd = .ok i →
    step s = exec i s.popped

/-- R90: a CMD write when idle is accepted, and what acceptance latches and clears. -/
def Obligations.CmdWriteWhenIdleIsAccepted : Prop :=
  ∀ (s : State) (w : Word) (rest : List Event), s.inbox = .write 0x28 8 w :: rest → s.rst = false → s.phase = .idle →
    step s = .next { s with
      inbox := rest, port := .done, lcmd := w, larg0 := s.arg0,
      lctrl := { truncEn := s.ctrl.truncEn, truncLimbs := s.ctrl.truncLimbs },
      cmd := w, phase := .busy, done := false, errcode := .none }

/-- R91: a CMD write when busy sets OVERRUN and changes nothing else. -/
def Obligations.CmdWriteWhenBusyOnlySetsOverrun : Prop :=
  ∀ (s : State) (w : Word) (rest : List Event), s.inbox = .write 0x28 8 w :: rest → s.rst = false → s.phase = .busy →
    step s = .next { s with inbox := rest, port := .done, overrun := true }

/-- R72: no step that leaves the engine busy changes the latched command, its operand, its truncation setting or the CMD
readback. -/
def Obligations.RunningCommandKeepsWhatItLatched : Prop :=
  ∀ s t : State, s.phase = .busy → step s = .next t → t.phase = .busy →
    t.lcmd = s.lcmd ∧ t.larg0 = s.larg0 ∧ t.lctrl = s.lctrl ∧ t.cmd = s.cmd

/-- R92, R240: an accepted command completes, whatever defined host accesses come first, unless reset is asserted: at the
latest once every pending event has been taken and the engine has one step more. That an empty event list gives the
engine the step is the model's reading of weak fairness (log 2). -/
def Obligations.BusyEngineCompletesWithinThePendingEvents : Prop :=
  ∀ s : State, s.phase = .busy → s.rst = false →
    (∀ e ∈ s.inbox, e.accessDefined = true ∧ e.keepsRunning = true) →
    ∃ k, k ≤ s.inbox.length + 1 ∧ ∃ t : State, Sys2Proof.core.run k s = .next t ∧ t.phase = .idle ∧ t.done = true

/-- R92: what a command computes is a function of its latched operands, the V registers and the parameters alone; no
command reads RESULT, OUTBUF, CTRL, ARG0, the window registers or the engine's left-over content. -/
def Obligations.CommandDependsOnLatchedOperandsAndRegistersOnly : Prop :=
  ∀ (i : Instr) (s u : State), s.params = u.params → s.v = u.v → s.larg0 = u.larg0 → s.lctrl = u.lctrl →
    ∃ s' u' : State, exec i s = .next s' ∧ exec i u = .next u' ∧ s'.v = u'.v ∧ s'.errcode = u'.errcode ∧
      ((∃ r, i = .lowdig r) → s'.errcode = .none → s'.result = u'.result) ∧
      ((∃ r, i = .decstr r) → s'.outbuf = u'.outbuf)

/-- R23: a command writes exactly the registers its rule names: V registers only among its destinations, RESULT only by
LOWDIG, OUTBUF only by DECSTR, ACC, BASE, E and the scratch only by MPOW and FIB, and nothing else but STATUS and the
phase. -/
def Obligations.CommandWritesOnlyWhatItsRuleNames : Prop :=
  ∀ (i : Instr) (s : State), ∃ t : State, exec i s = .next t ∧
    t = { s with
      v := t.v, result := t.result, outbuf := t.outbuf, errcode := t.errcode, done := true, phase := .idle,
      work := t.work, draws := t.draws } ∧
    (∀ r : VReg, r ∉ destRegs i → t.V r = s.V r) ∧
    ((∀ r, i ≠ .lowdig r) → t.result = s.result) ∧
    ((∀ r, i ≠ .decstr r) → t.outbuf = s.outbuf) ∧
    (usesEngine i = false → t.work = s.work ∧ t.draws = s.draws)

/-- R126, R166: truncation applies only inside MPOW and FIB; every other command ignores the latched truncation
setting. -/
def Obligations.TruncationSettingMattersOnlyToMpowAndFib : Prop :=
  ∀ (i : Instr) (s : State) (l : LCtrl), (∀ d a, i ≠ .mpow d a) → (∀ d, i ≠ .fib d) →
    ∃ t : State, exec i s = .next t ∧ exec i { s with lctrl := l } = .next { t with lctrl := l }

/-- R166, R167: a command accepted with TRUNC_EN = 0 does not look at TRUNC_LIMBS: neither the check of R167 nor the
result depends on it. -/
def Obligations.TruncationCountIsNotCheckedWhenTruncationIsOff : Prop :=
  ∀ (i : Instr) (s : State) (k : BitVec 32), s.lctrl.truncEn = false →
    ∃ t : State, exec i s = .next t ∧ t.errcode ≠ .badConfig ∧
      exec i { s with lctrl := { s.lctrl with truncLimbs := k } } =
        .next { t with lctrl := { s.lctrl with truncLimbs := k } }

/-! ## Errors (R200 to R202) -/

/-- R201: a command that raises an error writes nothing but STATUS; the engine's working registers are left
unspecified by MPOW and FIB. -/
def Obligations.CommandWithErrorChangesOnlyStatus : Prop :=
  ∀ (i : Instr) (s t : State), exec i s = .next t → t.errcode ≠ .none →
    t = { s with errcode := t.errcode, done := true, phase := .idle, work := t.work, draws := t.draws } ∧
    (usesEngine i = false → t = { s with errcode := t.errcode, done := true, phase := .idle })

/-- R200: the codes each well-formed command can report; NOP, VZERO, VMOV and DECSTR report none (they "raise only
ILLEGAL_CMD", which a decoded word does not raise). -/
def Obligations.EachCommandReportsOnlyItsOwnErrorCodes : Prop :=
  ∀ (i : Instr) (s : State), i.wf = true → ∃ t : State, exec i s = .next t ∧
    match i with
    | .nop | .vzero _ | .vmov _ _ | .decstr _ => t.errcode = .none
    | .vconst _ | .vadd _ _ _ | .vmul _ _ _ | .mmul _ _ _ => t.errcode ∈ [.none, .capacity]
    | .vlimbin _ => t.errcode ∈ [.none, .illegalOperand, .capacity]
    | .lowdig _ => t.errcode ∈ [.none, .illegalOperand]
    | .mpow _ _ => t.errcode ∈ [.none, .badConfig, .capacity]
    | .fib _ => t.errcode ∈ [.none, .badConfig, .invalidIndex, .capacity]

/-- R202: the order of the checks. An illegal M field comes before everything; a bad truncation setting before the index
check; the LARG0 range before the capacity. -/
def Obligations.ErrorChecksRunInTheStatedOrder : Prop :=
  (∀ (d a : MReg) (s : State), (Instr.mpow d a).wf = false →
    exec (.mpow d a) s = .next { s with errcode := .illegalCmd, done := true, phase := .idle }) ∧
  (∀ (d a : MReg) (s : State), (Instr.mpow d a).wf = true → ¬s.truncLegal →
    ∃ t, exec (.mpow d a) s = .next t ∧ t.errcode = .badConfig) ∧
  (∀ (d : VReg) (s : State), ¬s.truncLegal → ∃ t, exec (.fib d) s = .next t ∧ t.errcode = .badConfig) ∧
  (∀ (d : VReg) (s : State), s.truncLegal → s.larg0.toInt < 1 →
    ∃ t, exec (.fib d) s = .next t ∧ t.errcode = .invalidIndex) ∧
  (∀ (d : VReg) (s : State), s.radix ≤ s.larg0.toNat →
    ∃ t, exec (.vlimbin d) s = .next t ∧ t.errcode = .illegalOperand)

/-- R167: an MPOW or FIB accepted with TRUNC_EN = 1 and TRUNC_LIMBS = 0 or above MAXLIMBS ends with BAD_CONFIG and
writes nothing. -/
def Obligations.BadTruncationSettingEndsWithBadConfig : Prop :=
  ∀ s : State, s.lctrl.truncEn = true →
    (s.lctrl.truncLimbs.toNat = 0 ∨ s.params.maxLimbs < s.lctrl.truncLimbs.toNat) →
    (∀ d a : MReg, (Instr.mpow d a).wf = true →
      ∃ t, exec (.mpow d a) s = .next t ∧ t.v = s.v ∧ CompletesEngine .badConfig s t) ∧
    (∀ d : VReg, ∃ t, exec (.fib d) s = .next t ∧ t.v = s.v ∧ CompletesEngine .badConfig s t)

/-- R82, R85: a matrix command with an M field above 3 ends with ILLEGAL_CMD and changes only STATUS. -/
def Obligations.MatrixFieldAboveThreeEndsWithIllegalCmd : Prop :=
  ∀ (d a b : MReg) (s : State),
    (3 < d.toNat ∨ 3 < a.toNat ∨ 3 < b.toNat →
      exec (.mmul d a b) s = .next { s with errcode := .illegalCmd, done := true, phase := .idle }) ∧
    (3 < d.toNat ∨ 3 < a.toNat →
      exec (.mpow d a) s = .next { s with errcode := .illegalCmd, done := true, phase := .idle })

/-! ## Construction and data movement (R100 to R105) -/

/-- R100: NOP is word 0 and no other; it writes nothing but STATUS. -/
def Obligations.NopChangesOnlyStatus : Prop :=
  (∀ w : Word, decode w = .ok .nop ↔ w = 0) ∧
  ∀ s : State, exec .nop s = .next { s with errcode := .none, done := true, phase := .idle }

/-- R101: VZERO is word 0x01 | d << 8 and no other; V[d] becomes the empty sequence, which is zero. -/
def Obligations.VzeroEmptiesItsRegister : Prop :=
  ∀ (d : VReg) (s : State),
    (∀ w : Word, decode w = .ok (.vzero d) ↔ w = 0x01#64 ||| d.setWidth 64 <<< 8) ∧
    ∃ t, exec (.vzero d) s = .next t ∧ t.V d = [] ∧ t.valV d = 0 ∧ SameVBut d s t ∧ CompletesV .none s t

/-- R102: VCONST stores the canonical limbs of LARG0, or ends with CAPACITY when they are more than MAXLIMBS. -/
def Obligations.VconstConstructsItsValue : Prop :=
  ∀ (d : VReg) (s : State), s.Sound →
    (∀ w : Word, decode w = .ok (.vconst d) ↔ w = 0x02#64 ||| d.setWidth 64 <<< 8) ∧
    (s.fitsReg s.larg0.toNat →
      ∃ t, exec (.vconst d) s = .next t ∧ t.holds d s.larg0.toNat ∧ SameVBut d s t ∧ CompletesV .none s t) ∧
    (¬s.fitsReg s.larg0.toNat →
      exec (.vconst d) s = .next { s with errcode := .capacity, done := true, phase := .idle })

/-- R102: "With the default B = 10^9 this never happens": at LIMB_DIGITS = 9 VCONST succeeds for every LARG0. -/
def Obligations.VconstAlwaysFitsAtNineDigits : Prop :=
  ∀ (d : VReg) (s : State), s.Sound → s.params.limbDigits = 9 →
    ∃ t, exec (.vconst d) s = .next t ∧ t.holds d s.larg0.toNat ∧ (t.V d).length ≤ 3 ∧ SameVBut d s t ∧
      CompletesV .none s t

/-- R103: VMOV copies, and the copy is independent: a later write to either register leaves the other. -/
def Obligations.VmovCopiesItsSource : Prop :=
  ∀ (d a : VReg) (s : State),
    (∀ w : Word, decode w = .ok (.vmov d a) ↔ w = 0x03#64 ||| d.setWidth 64 <<< 8 ||| a.setWidth 64 <<< 12) ∧
    ∃ t, exec (.vmov d a) s = .next t ∧ t.V d = s.V a ∧ SameVBut d s t ∧ CompletesV .none s t ∧
      (d ≠ a → ∀ L : BigUint, (t.setV a L).V d = s.V a ∧ (t.setV d L).V a = s.V a)

/-- R104: VLIMBIN shifts a limb in at the low end; ILLEGAL_OPERAND for LARG0 ≥ B, CAPACITY when the result does not fit,
V[d] then unchanged. -/
def Obligations.VlimbinShiftsALimbIn : Prop :=
  ∀ (d : VReg) (s : State), s.Sound →
    (∀ w : Word, decode w = .ok (.vlimbin d) ↔ w = 0x04#64 ||| d.setWidth 64 <<< 8) ∧
    (s.radix ≤ s.larg0.toNat →
      exec (.vlimbin d) s = .next { s with errcode := .illegalOperand, done := true, phase := .idle }) ∧
    (s.larg0.toNat < s.radix → s.fitsReg (s.valV d * s.radix + s.larg0.toNat) →
      ∃ t, exec (.vlimbin d) s = .next t ∧ t.holds d (s.valV d * s.radix + s.larg0.toNat) ∧
        t.V d = (if s.V d = [] ∧ s.larg0 = 0 then [] else s.larg0.setWidth 32 :: s.V d) ∧
        SameVBut d s t ∧ CompletesV .none s t) ∧
    (s.larg0.toNat < s.radix → ¬s.fitsReg (s.valV d * s.radix + s.larg0.toNat) →
      exec (.vlimbin d) s = .next { s with errcode := .capacity, done := true, phase := .idle })

/-- R105: VZERO and then VLIMBIN of limbs l(n-1), ..., l0, each below B and n ≤ MAXLIMBS, raises no error and leaves
Σ l_i · B^i, written here as the number the limbs spell from the most significant down. -/
def Obligations.LoadSequenceLeavesTheSpelledValue : Prop :=
  ∀ (d : VReg) (ls : List Word) (s : State), s.Sound → ls.length ≤ s.params.maxLimbs →
    (∀ l ∈ ls, l.toNat < s.radix) →
    ∃ t u : State, exec (.vzero d) s = .next t ∧ t.errcode = .none ∧ loadLimbs d ls t = some u ∧
      u.valV d = ls.foldl (fun x l => x * s.radix + l.toNat) 0

/-! ## Adder and multiplier (R120 to R126) -/

/-- R120: VADD stores the exact sum, or ends with CAPACITY when it does not fit; any of a, b, d may be the same
register. -/
def Obligations.VaddStoresTheExactSum : Prop :=
  ∀ (d a b : VReg) (s : State), s.Sound →
    (∀ w : Word, decode w = .ok (.vadd d a b) ↔
      w = 0x10#64 ||| d.setWidth 64 <<< 8 ||| a.setWidth 64 <<< 12 ||| b.setWidth 64 <<< 16) ∧
    (s.fitsReg (s.valV a + s.valV b) →
      ∃ t, exec (.vadd d a b) s = .next t ∧ t.holds d (s.valV a + s.valV b) ∧ SameVBut d s t ∧ CompletesV .none s t ∧
        (s.V a = [] → t.V d = s.V b) ∧ (s.V b = [] → t.V d = s.V a)) ∧
    (¬s.fitsReg (s.valV a + s.valV b) →
      exec (.vadd d a b) s = .next { s with errcode := .capacity, done := true, phase := .idle })

/-- R122: VMUL stores the exact product, or ends with CAPACITY when it does not fit; a zero operand gives the empty
sequence; any of a, b, d may be the same register. -/
def Obligations.VmulStoresTheExactProduct : Prop :=
  ∀ (d a b : VReg) (s : State), s.Sound →
    (∀ w : Word, decode w = .ok (.vmul d a b) ↔
      w = 0x11#64 ||| d.setWidth 64 <<< 8 ||| a.setWidth 64 <<< 12 ||| b.setWidth 64 <<< 16) ∧
    (s.fitsReg (s.valV a * s.valV b) →
      ∃ t, exec (.vmul d a b) s = .next t ∧ t.holds d (s.valV a * s.valV b) ∧ SameVBut d s t ∧ CompletesV .none s t ∧
        (s.V a = [] ∨ s.V b = [] → t.V d = [])) ∧
    (¬s.fitsReg (s.valV a * s.valV b) →
      exec (.vmul d a b) s = .next { s with errcode := .capacity, done := true, phase := .idle })

/-- R124: the algebraic laws of the sums and products that VADD and VMUL store, over canonical limb sequences. -/
def Obligations.AddAndMulObeyTheAlgebraicLaws : Prop :=
  ∀ (p : Config.Params) (a b c : BigUint), p.wf = true →
    canonicalBig p a = true → canonicalBig p b = true → canonicalBig p c = true →
    let B := p.radix
    addBig B a b = addBig B b a ∧
    addBig B (addBig B a b) c = addBig B a (addBig B b c) ∧
    mulBig B a b = mulBig B b a ∧
    mulBig B (mulBig B a b) c = mulBig B a (mulBig B b c) ∧
    mulBig B a (addBig B b c) = addBig B (mulBig B a b) (mulBig B a c) ∧
    mulBig B a [] = [] ∧ addBig B a [] = a ∧ mulBig B a [1] = a

/-- R125: how many limbs a sum and a product have. -/
def Obligations.SumAndProductLengthBounds : Prop :=
  ∀ (p : Config.Params) (a b : BigUint), p.wf = true → canonicalBig p a = true → canonicalBig p b = true →
    ((addBig p.radix a b).length = max a.length b.length ∨ (addBig p.radix a b).length = max a.length b.length + 1) ∧
    (1 ≤ a.length → 1 ≤ b.length →
      (mulBig p.radix a b).length = a.length + b.length - 1 ∨ (mulBig p.radix a b).length = a.length + b.length)

/-- R121, R8: the source's addition loop over the 64-bit accumulator gives the sum of R120: nothing overflows. -/
def Obligations.AdditionLoopGivesTheExactSum : Prop :=
  ∀ (p : Config.Params) (a b : BigUint), p.wf = true → canonicalBig p a = true → canonicalBig p b = true →
    addAlgorithm p.radix a b = addBig p.radix a b

/-- R123, R8: the source's convolution with immediate normalisation over 64-bit cells gives the product of R122, with any
slack: nothing overflows and no carry is lost. -/
def Obligations.ConvolutionGivesTheExactProduct : Prop :=
  ∀ (p : Config.Params) (slack : Nat) (a b : BigUint), p.wf = true → canonicalBig p a = true →
    canonicalBig p b = true → mulAlgorithm p.radix slack a b = mulBig p.radix a b

/-! ## Output (R140 to R144) -/

/-- R140: LOWDIG stores the value modulo 10^k in RESULT, or ends with ILLEGAL_OPERAND for k > LIMB_DIGITS, RESULT then
unchanged. -/
def Obligations.LowdigReportsTheLowDigits : Prop :=
  ∀ (a : VReg) (s : State), s.Sound →
    (∀ w : Word, decode w = .ok (.lowdig a) ↔ w = 0x40#64 ||| a.setWidth 64 <<< 12) ∧
    (s.larg0.toNat ≤ s.params.limbDigits →
      ∃ t, exec (.lowdig a) s = .next t ∧ t.result.toNat = s.valV a % 10 ^ s.larg0.toNat ∧
        t = { s with result := t.result, errcode := .none, done := true, phase := .idle }) ∧
    (s.params.limbDigits < s.larg0.toNat →
      exec (.lowdig a) s = .next { s with errcode := .illegalOperand, done := true, phase := .idle })

/-- R142: DECSTR leaves in OUTBUF the decimal spelling of the register's value, most significant digit first, "0" for
zero, with no leading zero, in at most OUTCAP characters. -/
def Obligations.DecstrSpellsTheValueInDecimal : Prop :=
  ∀ (a : VReg) (s : State), s.Sound →
    (∀ w : Word, decode w = .ok (.decstr a) ↔ w = 0x41#64 ||| a.setWidth 64 <<< 12) ∧
    ∃ t, exec (.decstr a) s = .next t ∧ t.outText = Nat.toDigits 10 (s.valV a) ∧
      t.outbuf.length ≤ s.params.outCap ∧
      t = { s with outbuf := t.outbuf, errcode := .none, done := true, phase := .idle }

/-- R144: VCONST and then DECSTR leaves the decimal spelling of the constant. -/
def Obligations.ConstantThenDecimalStringRoundTrips : Prop :=
  ∀ (d : VReg) (x : Word) (s : State), s.Sound → s.fitsReg x.toNat →
    ∃ t u : State, exec (.vconst d) { s with larg0 := x } = .next t ∧ t.errcode = .none ∧
      exec (.decstr d) t = .next u ∧ u.errcode = .none ∧ u.outText = Nat.toDigits 10 x.toNat

/-! ## Matrix multiplier and exponentiation engine (R160 to R168) -/

/-- R160, R161: MMUL stores the exact matrix product in all four cells, or ends with CAPACITY and changes none; any of
a, b, d may be the same matrix. -/
def Obligations.MmulStoresTheExactMatrixProduct : Prop :=
  ∀ (d a b : MReg) (s : State), s.Sound → (Instr.mmul d a b).wf = true →
    (∀ w : Word, decode w = .ok (.mmul d a b) ↔
      w = 0x20#64 ||| d.setWidth 64 <<< 8 ||| a.setWidth 64 <<< 12 ||| b.setWidth 64 <<< 16) ∧
    ((matMul (s.valM a) (s.valM b)).fitsIn s.params →
      ∃ t, exec (.mmul d a b) s = .next t ∧ t.holdsMat d (matMul (s.valM a) (s.valM b)) ∧ SameVButM d s t ∧
        CompletesV .none s t) ∧
    (¬(matMul (s.valM a) (s.valM b)).fitsIn s.params →
      exec (.mmul d a b) s = .next { s with errcode := .capacity, done := true, phase := .idle })

/-- R162, R163, R165, R168, truncation off: MPOW stores X^e when every square and every partial product the loop stores
fits, and ends with CAPACITY otherwise. The loop's i-th iteration stores X^(2^i) and X^(e mod 2^i). -/
def Obligations.MpowWithoutTruncationStoresThePowerOrCapacity : Prop :=
  ∀ (d a : MReg) (s : State), s.Sound → (Instr.mpow d a).wf = true → s.lctrl.truncEn = false →
    (∀ w : Word, decode w = .ok (.mpow d a) ↔ w = 0x21#64 ||| d.setWidth 64 <<< 8 ||| a.setWidth 64 <<< 12) ∧
    ((∀ i, 1 ≤ i → i ≤ bitlen s.larg0.toNat →
        (matPow (s.valM a) (2 ^ i)).fitsIn s.params ∧ (matPow (s.valM a) (s.larg0.toNat % 2 ^ i)).fitsIn s.params) →
      ∃ t, exec (.mpow d a) s = .next t ∧ t.holdsMat d (matPow (s.valM a) s.larg0.toNat) ∧ SameVButM d s t ∧
        CompletesEngine .none s t) ∧
    (¬(∀ i, 1 ≤ i → i ≤ bitlen s.larg0.toNat →
        (matPow (s.valM a) (2 ^ i)).fitsIn s.params ∧ (matPow (s.valM a) (s.larg0.toNat % 2 ^ i)).fitsIn s.params) →
      ∃ t, exec (.mpow d a) s = .next t ∧ t.v = s.v ∧ CompletesEngine .capacity s t)

/-- R165, R166, R168, truncation on with a legal K: MPOW always succeeds, with X^e reduced cell by cell modulo B^K (for
e = 0 the identity). -/
def Obligations.MpowWithTruncationStoresThePowerModulo : Prop :=
  ∀ (d a : MReg) (s : State), s.Sound → (Instr.mpow d a).wf = true → s.lctrl.truncEn = true → s.truncLegal →
    ∃ t, exec (.mpow d a) s = .next t ∧
      t.holdsMat d (if s.larg0 = 0 then natI
        else (matPow (s.valM a) s.larg0.toNat).map (· % s.radix ^ s.lctrl.truncLimbs.toNat)) ∧
      SameVButM d s t ∧ CompletesEngine .none s t

/-- R163, R164: the loop that counts each product it computes has the result of `powLoop`, at every bound on the
iterations and from every counter; PowLoop(X, e) is it at 64 iterations. Where it succeeds it has computed popcount(e)
folds and bitlen(e) squarings; where a product does not fit, no more than that; at most 128 products in all. -/
def Obligations.PowLoopProductCount : Prop :=
  ∀ (p : Config.Params) (l : LCtrl) (X : Mat BigUint) (e : Word),
    (∀ (fuel : Nat) (n : ProductCount) (A : Mat BigUint), (powLoopCounted p l fuel n A X e).2 = powLoop p l fuel A X e) ∧
    (∀ P : Mat BigUint, powMat p l X e = .ok P →
      powProducts p l X e = { folds := popcount e, squarings := bitlen e.toNat }) ∧
    (powProducts p l X e).folds ≤ popcount e ∧ (powProducts p l X e).squarings ≤ bitlen e.toNat ∧
    (powProducts p l X e).total ≤ 128

/-- R163: the loop stops after at most bitlen(e) iterations: any larger bound on the iterations gives the same result. -/
def Obligations.PowLoopStopsWithinBitlen : Prop :=
  ∀ (p : Config.Params) (l : LCtrl) (A X : Mat BigUint) (e : Word) (fuel : Nat), bitlen e.toNat ≤ fuel →
    powLoop p l fuel A X e = powLoop p l 64 A X e

/-- R22: the matrix view. A write of a cell's V register changes that cell alone, and a write of M[k] is read back in
its four V registers in row-major order. -/
def Obligations.MatricesAreViewsOfTheRegisters : Prop :=
  ∀ (k : MReg) (s : State), mfieldOk k = true →
    (cellReg k 0).toNat = 4 * k.toNat ∧ (cellReg k 1).toNat = 4 * k.toNat + 1 ∧
    (cellReg k 2).toNat = 4 * k.toNat + 2 ∧ (cellReg k 3).toNat = 4 * k.toNat + 3 ∧
    (∀ L : BigUint,
      (s.setV (cellReg k 0) L).M k = { s.M k with c00 := L } ∧ (s.setV (cellReg k 1) L).M k = { s.M k with c01 := L } ∧
      (s.setV (cellReg k 2) L).M k = { s.M k with c10 := L } ∧ (s.setV (cellReg k 3) L).M k = { s.M k with c11 := L }) ∧
    (∀ R : Mat BigUint, (s.setM k R).V (cellReg k 0) = R.c00 ∧ (s.setM k R).V (cellReg k 1) = R.c01 ∧
      (s.setM k R).V (cellReg k 2) = R.c10 ∧ (s.setM k R).V (cellReg k 3) = R.c11 ∧ SameVButM k s (s.setM k R)) ∧
    (∀ j : MReg, mfieldOk j = true → j ≠ k → ∀ R : Mat BigUint, (s.setM k R).M j = s.M j)

/-! ## Fibonacci (R180 to R184) -/

/-- R180, R181, R184, truncation off: for n ≥ 1 FIB stores F(n) when n ≤ 2 or the loop's last square Q^(2^bitlen(n-2))
fits, and ends with CAPACITY otherwise. -/
def Obligations.FibWithoutTruncationStoresTheFibonacciNumberOrCapacity : Prop :=
  ∀ (d : VReg) (s : State) (n : Nat), s.Sound → s.lctrl.truncEn = false → s.larg0.toInt = n → 1 ≤ n →
    (∀ w : Word, decode w = .ok (.fib d) ↔ w = 0x30#64 ||| d.setWidth 64 <<< 8) ∧
    (n ≤ 2 ∨ s.fitsReg (Nat.fib (2 ^ bitlen (n - 2) + 1)) →
      ∃ t, exec (.fib d) s = .next t ∧ t.holds d (Nat.fib n) ∧ SameVBut d s t ∧ CompletesEngine .none s t) ∧
    (¬(n ≤ 2 ∨ s.fitsReg (Nat.fib (2 ^ bitlen (n - 2) + 1))) →
      ∃ t, exec (.fib d) s = .next t ∧ t.v = s.v ∧ CompletesEngine .capacity s t)

/-- R168, R180, R181, truncation on with a legal K: for every n ≥ 1 FIB succeeds with F(n) mod B^K. -/
def Obligations.FibWithTruncationStoresTheFibonacciNumberModulo : Prop :=
  ∀ (d : VReg) (s : State) (n : Nat), s.Sound → s.lctrl.truncEn = true → s.truncLegal → s.larg0.toInt = n → 1 ≤ n →
    ∃ t, exec (.fib d) s = .next t ∧ t.holds d (Nat.fib n % s.radix ^ s.lctrl.truncLimbs.toNat) ∧ SameVBut d s t ∧
      CompletesEngine .none s t

/-- R180, R183: FIB with an index below 1 (read as two's complement) ends with INVALID_INDEX and writes no value. -/
def Obligations.FibBelowOneEndsWithInvalidIndex : Prop :=
  ∀ (d : VReg) (s : State), s.truncLegal → s.larg0.toInt < 1 →
    ∃ t, exec (.fib d) s = .next t ∧ t.v = s.v ∧ CompletesEngine .invalidIndex s t

/-! ## The host window (R24 to R38, R61 to R68) -/

/-- R63: an access that is not 8 bytes at a multiple of 8 below 0x100 is a bus error, a fault of the host program; every
other access is answered. Outside reset; under reset see `AssertedResetHoldsEverything`. -/
def Obligations.OnlyAlignedEightByteAccessesAreDefined : Prop :=
  ∀ (s : State) (off n : Nat) (w : Word) (rest : List Event), s.rst = false →
    (¬(n = 8 ∧ off % 8 = 0 ∧ off < 0x100) →
      (s.inbox = .read off n :: rest → step s = .fault (.busError off n)) ∧
      (s.inbox = .write off n w :: rest → step s = .fault (.busError off n))) ∧
    (n = 8 ∧ off % 8 = 0 ∧ off < 0x100 →
      (s.inbox = .read off n :: rest → ∃ t x, step s = .next t ∧ t.port = .data x) ∧
      (s.inbox = .write off n w :: rest → ∃ t, step s = .next t ∧ t.port = .done))

/-- R66: a read changes nothing but the port's answer (and the model's draw counter, where the answer is a free value). -/
def Obligations.HostReadsHaveNoSideEffect : Prop :=
  ∀ (s t : State) (off n : Nat) (rest : List Event), s.inbox = .read off n :: rest → step s = .next t →
    t = { s with inbox := rest, port := t.port, draws := t.draws } ∧
    (s.phase = .idle ∨ s.rst = true → t.draws = s.draws)

/-- R68: while BUSY a read of RESULT, RD_LEN, RD_LIMB, OUT_LEN or OUT_CHAR returns a free value, whichever the draw
counter says; reads of CFG0, CFG1, CTRL, STATUS, ARG0, CMD, RD_SEL, RD_IDX and OUT_IDX are exact at all times outside
reset. -/
def Obligations.ReadsWhileBusyAreFreeOnlyForResults : Prop :=
  ∀ (s : State) (off : Nat) (rest : List Event), s.rst = false → s.inbox = .read off 8 :: rest →
    (s.phase = .busy → off ∈ [0x30, 0x48, 0x50, 0x58, 0x68] →
      step s = .next { s with inbox := rest, port := .data (Config.freeRead s.draws), draws := s.draws + 1 }) ∧
    (off ∈ [0x00, 0x08, 0x10, 0x18, 0x20, 0x28, 0x38, 0x40, 0x60] →
      step s = .next { s with inbox := rest, port := .data (s.readReg (regAt off)) })

/-- R24 to R27, R29, R30, R34, R36, R37: what a read of each exact register returns, field by field, at all times outside
reset; reserved fields read 0. -/
def Obligations.ExactRegistersReadTheirFields : Prop :=
  ∀ (s : State) (off : Nat) (rest : List Event), s.params.wf = true → s.rst = false → s.inbox = .read off 8 :: rest →
    off ∈ [0x00, 0x08, 0x10, 0x18, 0x20, 0x28, 0x38, 0x40, 0x60] →
    ∃ x : Word, step s = .next { s with inbox := rest, port := .data x } ∧
      (off = 0x00 → x.toNat = s.radix * 2 ^ 32 + 16 * 2 ^ 8 + s.params.limbDigits) ∧
      (off = 0x08 → x.toNat = s.params.maxLimbs) ∧
      (off = 0x10 → x.toNat = s.ctrl.truncLimbs.toNat * 2 ^ 32 + s.ctrl.truncEn.toNat * 2 + s.ctrl.irqEn.toNat) ∧
      (off = 0x18 → x.toNat = s.errcode.number.toNat * 2 ^ 8 + s.overrun.toNat * 2 ^ 3 +
        (if s.errcode = .none then 0 else 2 ^ 2) + s.done.toNat * 2 + (if s.phase = .busy then 1 else 0)) ∧
      (off = 0x20 → x = s.arg0) ∧ (off = 0x28 → x = s.cmd) ∧
      (off = 0x38 → x.toNat = s.rdSel.toNat) ∧ (off = 0x40 → x.toNat = s.rdIdx.toNat) ∧ (off = 0x60 → x = s.outIdx)

/-- R28, R31 to R33, R35, R65: what a read of a result register returns while the engine is idle, and that reserved
offsets always read 0. -/
def Obligations.IdleResultRegistersReadTheirValues : Prop :=
  ∀ (s : State) (off : Nat) (rest : List Event), s.Inv → s.rst = false → s.inbox = .read off 8 :: rest →
    (s.phase = .idle → off ∈ [0x30, 0x48, 0x50, 0x58, 0x68] →
      ∃ x : Word, step s = .next { s with inbox := rest, port := .data x } ∧
        (off = 0x30 → x = s.result) ∧
        (off = 0x48 → x.toNat = (s.V s.rdSel).length) ∧
        (off = 0x50 → x.toNat = ((s.V s.rdSel).getD s.rdIdx.toNat 0).toNat) ∧
        (off = 0x58 → x.toNat = s.outbuf.length) ∧
        (off = 0x68 → x.toNat = (s.outbuf.getD s.outIdx.toNat 0).toNat)) ∧
    (off % 8 = 0 → 0x70 ≤ off → off < 0x100 → step s = .next { s with inbox := rest, port := .data 0 })

/-- R65, R66: writes to read-only registers and reserved offsets are answered and ignored. -/
def Obligations.WritesToReadOnlyAndReservedOffsetsAreIgnored : Prop :=
  ∀ (s : State) (off : Nat) (w : Word) (rest : List Event), s.rst = false → s.inbox = .write off 8 w :: rest →
    off ∈ [0x00, 0x08, 0x30, 0x48, 0x50, 0x58, 0x68] ∨ (off % 8 = 0 ∧ 0x70 ≤ off ∧ off < 0x100) →
    step s = .next { s with inbox := rest, port := .done }

/-- R24, R26, R29, R30, R34: a write of each plain register stores its writable fields and changes nothing else, also
while BUSY. -/
def Obligations.PlainRegisterWritesStoreTheirFields : Prop :=
  ∀ (s : State) (w : Word) (rest : List Event), s.rst = false →
    (s.inbox = .write 0x10 8 w :: rest →
      ∃ c : Ctrl, step s = .next { s with inbox := rest, port := .done, ctrl := c } ∧
        c.irqEn.toNat = w.toNat % 2 ∧ c.truncEn.toNat = w.toNat / 2 % 2 ∧ c.truncLimbs.toNat = w.toNat / 2 ^ 32) ∧
    (s.inbox = .write 0x20 8 w :: rest → step s = .next { s with inbox := rest, port := .done, arg0 := w }) ∧
    (s.inbox = .write 0x38 8 w :: rest →
      ∃ x : BitVec 4, step s = .next { s with inbox := rest, port := .done, rdSel := x } ∧ x.toNat = w.toNat % 16) ∧
    (s.inbox = .write 0x40 8 w :: rest →
      ∃ x : BitVec 32, step s = .next { s with inbox := rest, port := .done, rdIdx := x } ∧
        x.toNat = w.toNat % 2 ^ 32) ∧
    (s.inbox = .write 0x60 8 w :: rest → step s = .next { s with inbox := rest, port := .done, outIdx := w })

/-- R25: a STATUS write clears DONE where bit 1 is 1 and OVERRUN where bit 3 is 1, and changes nothing else; ERRCODE and
BUSY are kept. -/
def Obligations.StatusWriteClearsOnlyDoneAndOverrun : Prop :=
  ∀ (s : State) (w : Word) (rest : List Event), s.rst = false → s.inbox = .write 0x18 8 w :: rest →
    step s = .next { s with
      inbox := rest, port := .done,
      done := if w.toNat / 2 % 2 = 1 then false else s.done,
      overrun := if w.toNat / 8 % 2 = 1 then false else s.overrun }

/-- R38, R206: irq is the DONE bit of STATUS and the IRQ_EN bit of CTRL; it rises only at a completion with IRQ_EN = 1 or
when a CTRL write sets IRQ_EN while DONE = 1; it falls only when the host clears DONE or IRQ_EN, issues a command that is
accepted, or reset is asserted. -/
def Obligations.IrqIsDoneAndIrqEnAndChangesOnlyAsStated : Prop :=
  (∀ s : State, s.irq = (s.statusWord.getLsbD 1 && s.ctrl.word.getLsbD 0)) ∧
  (∀ s t : State, step s = .next t → s.irq = false → t.irq = true →
    (s.phase = .busy ∧ t.phase = .idle ∧ s.ctrl.irqEn = true) ∨
    (s.done = true ∧ ∃ w rest, s.inbox = .write 0x10 8 w :: rest ∧ w.getLsbD 0 = true)) ∧
  (∀ s t : State, step s = .next t → s.irq = true → t.irq = false →
    ∃ e rest, s.inbox = e :: rest ∧
      ((∃ w, e = .write 0x18 8 w ∧ w.getLsbD 1 = true) ∨ (∃ w, e = .write 0x10 8 w ∧ w.getLsbD 0 = false) ∨
        (∃ w, e = .write 0x28 8 w ∧ s.phase = .idle) ∨ e = .assertRst))

/-- R21, R23, R28, R33: the host has no path that writes a limb, RESULT or OUTBUF: over a step they change only when the
busy engine completes or reset is asserted. -/
def Obligations.OnlyCompletionOrResetChangesResults : Prop :=
  ∀ s t : State, step s = .next t → (t.v ≠ s.v ∨ t.result ≠ s.result ∨ t.outbuf ≠ s.outbuf) →
    (s.engineNext = true ∧ s.phase = .busy ∧ s.rst = false) ∨ s.inbox.head? = some .assertRst

/-- R39, as log 5 reads it: over a step, ACC, BASE, E and the scratch change only where that step is the completion of an
MPOW or FIB, or asserts reset. -/
def Obligations.EngineRegistersChangeOnlyInMpowFibOrReset : Prop :=
  ∀ s t : State, step s = .next t → t.work ≠ s.work →
    (s.engineNext = true ∧ s.phase = .busy ∧ s.rst = false ∧ (∃ i, decode s.lcmd = .ok i ∧ usesEngine i = true) ∧
      t.phase = .idle ∧ t.done = true) ∨
    s.inbox.head? = some .assertRst

/-! ## Reset and the invariant (R21, R230, R231) -/

/-- R230: from the step that asserts rst, while it stays asserted, host writes are ignored, host reads return 0 whatever
their offset and size (log 7), and the engine does nothing, also where no event is pending; each step leaves rst asserted
and, but for the unspecified working registers, every piece of state at its reset value; releasing it leaves an idle engine
at those values. -/
def Obligations.AssertedResetHoldsEverything : Prop :=
  ∀ s : State,
    (∀ (e : Event) (rest : List Event), s.inbox = e :: rest →
      (e = .assertRst → ∃ t, step s = .next t ∧
        t = { State.resetWith s.params with
              work := t.work, rst := true, port := s.port, inbox := rest, draws := t.draws }) ∧
      (s.rst = true → (∀ off n, e = .read off n → step s = .next { s with inbox := rest, port := .data 0 }) ∧
        (∀ off n w, e = .write off n w → step s = .next { s with inbox := rest, port := .done }) ∧
        (e = .engine → step s = .next { s with inbox := rest })) ∧
      (e = .releaseRst → step s = .next { s with inbox := rest, rst := false })) ∧
    (s.inbox = [] → s.rst = true → step s = .next s)

/-- R231: the reset values of every register the spec gives one, for every choice of parameters, and that State.reset is
the reset state of one such choice. -/
def Obligations.ResetStateHasTheTabledValues : Prop :=
  (∀ p : Config.Params, let r := State.resetWith p
    (∀ i : VReg, r.V i = []) ∧ (∀ k : MReg, r.valM k = Mat.fill 0) ∧
    r.ctrl.word = 0 ∧ r.statusWord = 0 ∧ r.arg0 = 0 ∧ r.cmd = 0 ∧ r.result = 0 ∧ r.rdSel = 0 ∧ r.rdIdx = 0 ∧
    r.outbuf = [] ∧ r.outIdx = 0 ∧ r.irq = false ∧ r.phase = .idle ∧ r.lcmd = 0 ∧ r.larg0 = 0 ∧
    r.lctrl = { truncEn := false, truncLimbs := 0 } ∧
    r.readReg .cfg0 = cfg0Word p ∧ r.readReg .cfg1 = cfg1Word p ∧ r.params = p) ∧
  ∃ p : Config.Params, p.wf = true ∧ p.limbDigits = 9 ∧ State.reset = State.resetWith p

/-- R20, R21, R231: the invariant holds in the reset state of every legal choice of parameters. -/
def Obligations.ResetStateMeetsTheInvariant : Prop :=
  (∀ p : Config.Params, p.wf = true → (State.resetWith p).Inv) ∧ State.reset.Inv

/-- R21 and with it R5, R6, R20, R25, R33, R39, R141, R230: every step keeps the invariant, from every state that has
it: legal parameters, canonical registers of at most MAXLIMBS limbs, a digit string of at most OUTCAP characters, a clear
STATUS and a matching CMD readback while busy, the storage of the working registers, everything held in reset. -/
def Obligations.EveryStepKeepsTheInvariant : Prop :=
  ∀ s t : State, s.Inv → step s = .next t → t.Inv

/-- R5, R6, R36, R37: no step changes the parameters, so CFG0 and CFG1 are constants. -/
def Obligations.NoStepChangesTheParameters : Prop :=
  ∀ s t : State, step s = .next t →
    t.params = s.params ∧ t.readReg .cfg0 = s.readReg .cfg0 ∧ t.readReg .cfg1 = s.readReg .cfg1
end

