-- ==== Sys2Proof/Laws/Decode.lean ====
section
/-!
SUPPORT. The fields of a command word built by `commandWord` are the fields it was built from (R81, R87).
-/

namespace Sys2Proof

theorem fieldOp_commandWord (op : BitVec 8) (rd rs1 rs2 : BitVec 4) : fieldOp (commandWord op rd rs1 rs2) = op := by
  apply BitVec.eq_of_getLsbD_eq
  intro i hi
  have h1 : i < 64 := by omega
  have h2 : i < 12 := by omega
  have h3 : i < 16 := by omega
  simp [fieldOp, commandWord, hi, h1, h2, h3]

theorem fieldRd_commandWord (op : BitVec 8) (rd rs1 rs2 : BitVec 4) : fieldRd (commandWord op rd rs1 rs2) = rd := by
  apply BitVec.eq_of_getLsbD_eq
  intro i hi
  have h1 : 8 + i < 64 := by omega
  have h2 : 8 + i < 12 := by omega
  have h3 : 8 + i < 16 := by omega
  simp [fieldRd, commandWord, hi, h1, h2, h3]

theorem fieldRs1_commandWord (op : BitVec 8) (rd rs1 rs2 : BitVec 4) : fieldRs1 (commandWord op rd rs1 rs2) = rs1 := by
  apply BitVec.eq_of_getLsbD_eq
  intro i hi
  have h1 : 12 + i < 64 := by omega
  have h2 : ¬12 + i < 8 := by omega
  have h3 : 12 + i < 16 := by omega
  have h4 : 12 + i - 8 = 4 + i := by omega
  have o : op.getLsbD (12 + i) = false := BitVec.getLsbD_of_ge _ _ (by omega)
  simp [fieldRs1, commandWord, hi, h1, h2, h3, h4, o]

theorem fieldRs2_commandWord (op : BitVec 8) (rd rs1 rs2 : BitVec 4) : fieldRs2 (commandWord op rd rs1 rs2) = rs2 := by
  apply BitVec.eq_of_getLsbD_eq
  intro i hi
  have h1 : 16 + i < 64 := by omega
  have h2 : ¬16 + i < 8 := by omega
  have h3 : ¬16 + i < 12 := by omega
  have h4 : 16 + i - 8 = 8 + i := by omega
  have h5 : 16 + i - 12 = 4 + i := by omega
  have o : op.getLsbD (16 + i) = false := BitVec.getLsbD_of_ge _ _ (by omega)
  have r : rd.getLsbD (8 + i) = false := BitVec.getLsbD_of_ge _ _ (by omega)
  simp [fieldRs2, commandWord, hi, h1, h2, h3, h4, h5, o, r]

/-- A command word has no bit above bit 19 (R80, R81). -/
theorem commandWord_lt (op : BitVec 8) (rd rs1 rs2 : BitVec 4) : (commandWord op rd rs1 rs2).toNat < 2 ^ 20 := by
  have h0 := op.isLt
  have h1 := rd.isLt
  have h2 := rs1.isLt
  have h3 := rs2.isLt
  have e1 : rd.toNat <<< 8 % 2 ^ 64 < 2 ^ 20 := by rw [Nat.shiftLeft_eq]; omega
  have e2 : rs1.toNat <<< 12 % 2 ^ 64 < 2 ^ 20 := by rw [Nat.shiftLeft_eq]; omega
  have e3 : rs2.toNat <<< 16 % 2 ^ 64 < 2 ^ 20 := by rw [Nat.shiftLeft_eq]; omega
  simp only [commandWord, BitVec.toNat_or, BitVec.toNat_shiftLeft, BitVec.toNat_setWidth]
  refine Nat.or_lt_two_pow (Nat.or_lt_two_pow (Nat.or_lt_two_pow (by omega) ?_) ?_) ?_ <;>
    (rw [Nat.shiftLeft_eq]; omega)

end Sys2Proof
end

