-- ==== Sys2Proof/Laws/State.lean ====
section
/-!
SUPPORT. One lemma per field and state update, each by definition, so that no proof unfolds a record update.
-/

namespace Sys2Proof.Machine

/-! ## setV -/

@[simp] theorem setV_params (i : VReg) (L : BigUint) (s : State) : (s.setV i L).params = s.params := rfl
@[simp] theorem setV_v (i : VReg) (L : BigUint) (s : State) : (s.setV i L).v = s.v.set i.toNat L i.isLt := rfl
@[simp] theorem setV_ctrl (i : VReg) (L : BigUint) (s : State) : (s.setV i L).ctrl = s.ctrl := rfl
@[simp] theorem setV_done (i : VReg) (L : BigUint) (s : State) : (s.setV i L).done = s.done := rfl
@[simp] theorem setV_overrun (i : VReg) (L : BigUint) (s : State) : (s.setV i L).overrun = s.overrun := rfl
@[simp] theorem setV_errcode (i : VReg) (L : BigUint) (s : State) : (s.setV i L).errcode = s.errcode := rfl
@[simp] theorem setV_arg0 (i : VReg) (L : BigUint) (s : State) : (s.setV i L).arg0 = s.arg0 := rfl
@[simp] theorem setV_cmd (i : VReg) (L : BigUint) (s : State) : (s.setV i L).cmd = s.cmd := rfl
@[simp] theorem setV_result (i : VReg) (L : BigUint) (s : State) : (s.setV i L).result = s.result := rfl
@[simp] theorem setV_rdSel (i : VReg) (L : BigUint) (s : State) : (s.setV i L).rdSel = s.rdSel := rfl
@[simp] theorem setV_rdIdx (i : VReg) (L : BigUint) (s : State) : (s.setV i L).rdIdx = s.rdIdx := rfl
@[simp] theorem setV_outbuf (i : VReg) (L : BigUint) (s : State) : (s.setV i L).outbuf = s.outbuf := rfl
@[simp] theorem setV_outIdx (i : VReg) (L : BigUint) (s : State) : (s.setV i L).outIdx = s.outIdx := rfl
@[simp] theorem setV_phase (i : VReg) (L : BigUint) (s : State) : (s.setV i L).phase = s.phase := rfl
@[simp] theorem setV_lcmd (i : VReg) (L : BigUint) (s : State) : (s.setV i L).lcmd = s.lcmd := rfl
@[simp] theorem setV_larg0 (i : VReg) (L : BigUint) (s : State) : (s.setV i L).larg0 = s.larg0 := rfl
@[simp] theorem setV_lctrl (i : VReg) (L : BigUint) (s : State) : (s.setV i L).lctrl = s.lctrl := rfl
@[simp] theorem setV_work (i : VReg) (L : BigUint) (s : State) : (s.setV i L).work = s.work := rfl
@[simp] theorem setV_rst (i : VReg) (L : BigUint) (s : State) : (s.setV i L).rst = s.rst := rfl
@[simp] theorem setV_port (i : VReg) (L : BigUint) (s : State) : (s.setV i L).port = s.port := rfl
@[simp] theorem setV_inbox (i : VReg) (L : BigUint) (s : State) : (s.setV i L).inbox = s.inbox := rfl
@[simp] theorem setV_draws (i : VReg) (L : BigUint) (s : State) : (s.setV i L).draws = s.draws := rfl

/-! ## setM -/

@[simp] theorem setM_params (k : MReg) (R : Mat BigUint) (s : State) : (s.setM k R).params = s.params := rfl
@[simp] theorem setM_ctrl (k : MReg) (R : Mat BigUint) (s : State) : (s.setM k R).ctrl = s.ctrl := rfl
@[simp] theorem setM_done (k : MReg) (R : Mat BigUint) (s : State) : (s.setM k R).done = s.done := rfl
@[simp] theorem setM_overrun (k : MReg) (R : Mat BigUint) (s : State) : (s.setM k R).overrun = s.overrun := rfl
@[simp] theorem setM_errcode (k : MReg) (R : Mat BigUint) (s : State) : (s.setM k R).errcode = s.errcode := rfl
@[simp] theorem setM_arg0 (k : MReg) (R : Mat BigUint) (s : State) : (s.setM k R).arg0 = s.arg0 := rfl
@[simp] theorem setM_cmd (k : MReg) (R : Mat BigUint) (s : State) : (s.setM k R).cmd = s.cmd := rfl
@[simp] theorem setM_result (k : MReg) (R : Mat BigUint) (s : State) : (s.setM k R).result = s.result := rfl
@[simp] theorem setM_rdSel (k : MReg) (R : Mat BigUint) (s : State) : (s.setM k R).rdSel = s.rdSel := rfl
@[simp] theorem setM_rdIdx (k : MReg) (R : Mat BigUint) (s : State) : (s.setM k R).rdIdx = s.rdIdx := rfl
@[simp] theorem setM_outbuf (k : MReg) (R : Mat BigUint) (s : State) : (s.setM k R).outbuf = s.outbuf := rfl
@[simp] theorem setM_outIdx (k : MReg) (R : Mat BigUint) (s : State) : (s.setM k R).outIdx = s.outIdx := rfl
@[simp] theorem setM_phase (k : MReg) (R : Mat BigUint) (s : State) : (s.setM k R).phase = s.phase := rfl
@[simp] theorem setM_lcmd (k : MReg) (R : Mat BigUint) (s : State) : (s.setM k R).lcmd = s.lcmd := rfl
@[simp] theorem setM_larg0 (k : MReg) (R : Mat BigUint) (s : State) : (s.setM k R).larg0 = s.larg0 := rfl
@[simp] theorem setM_lctrl (k : MReg) (R : Mat BigUint) (s : State) : (s.setM k R).lctrl = s.lctrl := rfl
@[simp] theorem setM_work (k : MReg) (R : Mat BigUint) (s : State) : (s.setM k R).work = s.work := rfl
@[simp] theorem setM_rst (k : MReg) (R : Mat BigUint) (s : State) : (s.setM k R).rst = s.rst := rfl
@[simp] theorem setM_port (k : MReg) (R : Mat BigUint) (s : State) : (s.setM k R).port = s.port := rfl
@[simp] theorem setM_inbox (k : MReg) (R : Mat BigUint) (s : State) : (s.setM k R).inbox = s.inbox := rfl
@[simp] theorem setM_draws (k : MReg) (R : Mat BigUint) (s : State) : (s.setM k R).draws = s.draws := rfl

/-! ## setResult -/

@[simp] theorem setResult_params (r : Word) (s : State) : (s.setResult r).params = s.params := rfl
@[simp] theorem setResult_v (r : Word) (s : State) : (s.setResult r).v = s.v := rfl
@[simp] theorem setResult_ctrl (r : Word) (s : State) : (s.setResult r).ctrl = s.ctrl := rfl
@[simp] theorem setResult_done (r : Word) (s : State) : (s.setResult r).done = s.done := rfl
@[simp] theorem setResult_overrun (r : Word) (s : State) : (s.setResult r).overrun = s.overrun := rfl
@[simp] theorem setResult_errcode (r : Word) (s : State) : (s.setResult r).errcode = s.errcode := rfl
@[simp] theorem setResult_arg0 (r : Word) (s : State) : (s.setResult r).arg0 = s.arg0 := rfl
@[simp] theorem setResult_cmd (r : Word) (s : State) : (s.setResult r).cmd = s.cmd := rfl
@[simp] theorem setResult_result (r : Word) (s : State) : (s.setResult r).result = r := rfl
@[simp] theorem setResult_rdSel (r : Word) (s : State) : (s.setResult r).rdSel = s.rdSel := rfl
@[simp] theorem setResult_rdIdx (r : Word) (s : State) : (s.setResult r).rdIdx = s.rdIdx := rfl
@[simp] theorem setResult_outbuf (r : Word) (s : State) : (s.setResult r).outbuf = s.outbuf := rfl
@[simp] theorem setResult_outIdx (r : Word) (s : State) : (s.setResult r).outIdx = s.outIdx := rfl
@[simp] theorem setResult_phase (r : Word) (s : State) : (s.setResult r).phase = s.phase := rfl
@[simp] theorem setResult_lcmd (r : Word) (s : State) : (s.setResult r).lcmd = s.lcmd := rfl
@[simp] theorem setResult_larg0 (r : Word) (s : State) : (s.setResult r).larg0 = s.larg0 := rfl
@[simp] theorem setResult_lctrl (r : Word) (s : State) : (s.setResult r).lctrl = s.lctrl := rfl
@[simp] theorem setResult_work (r : Word) (s : State) : (s.setResult r).work = s.work := rfl
@[simp] theorem setResult_rst (r : Word) (s : State) : (s.setResult r).rst = s.rst := rfl
@[simp] theorem setResult_port (r : Word) (s : State) : (s.setResult r).port = s.port := rfl
@[simp] theorem setResult_inbox (r : Word) (s : State) : (s.setResult r).inbox = s.inbox := rfl
@[simp] theorem setResult_draws (r : Word) (s : State) : (s.setResult r).draws = s.draws := rfl

/-! ## setOutbuf -/

@[simp] theorem setOutbuf_params (S : List Byte) (s : State) : (s.setOutbuf S).params = s.params := rfl
@[simp] theorem setOutbuf_v (S : List Byte) (s : State) : (s.setOutbuf S).v = s.v := rfl
@[simp] theorem setOutbuf_ctrl (S : List Byte) (s : State) : (s.setOutbuf S).ctrl = s.ctrl := rfl
@[simp] theorem setOutbuf_done (S : List Byte) (s : State) : (s.setOutbuf S).done = s.done := rfl
@[simp] theorem setOutbuf_overrun (S : List Byte) (s : State) : (s.setOutbuf S).overrun = s.overrun := rfl
@[simp] theorem setOutbuf_errcode (S : List Byte) (s : State) : (s.setOutbuf S).errcode = s.errcode := rfl
@[simp] theorem setOutbuf_arg0 (S : List Byte) (s : State) : (s.setOutbuf S).arg0 = s.arg0 := rfl
@[simp] theorem setOutbuf_cmd (S : List Byte) (s : State) : (s.setOutbuf S).cmd = s.cmd := rfl
@[simp] theorem setOutbuf_result (S : List Byte) (s : State) : (s.setOutbuf S).result = s.result := rfl
@[simp] theorem setOutbuf_rdSel (S : List Byte) (s : State) : (s.setOutbuf S).rdSel = s.rdSel := rfl
@[simp] theorem setOutbuf_rdIdx (S : List Byte) (s : State) : (s.setOutbuf S).rdIdx = s.rdIdx := rfl
@[simp] theorem setOutbuf_outbuf (S : List Byte) (s : State) : (s.setOutbuf S).outbuf = S := rfl
@[simp] theorem setOutbuf_outIdx (S : List Byte) (s : State) : (s.setOutbuf S).outIdx = s.outIdx := rfl
@[simp] theorem setOutbuf_phase (S : List Byte) (s : State) : (s.setOutbuf S).phase = s.phase := rfl
@[simp] theorem setOutbuf_lcmd (S : List Byte) (s : State) : (s.setOutbuf S).lcmd = s.lcmd := rfl
@[simp] theorem setOutbuf_larg0 (S : List Byte) (s : State) : (s.setOutbuf S).larg0 = s.larg0 := rfl
@[simp] theorem setOutbuf_lctrl (S : List Byte) (s : State) : (s.setOutbuf S).lctrl = s.lctrl := rfl
@[simp] theorem setOutbuf_work (S : List Byte) (s : State) : (s.setOutbuf S).work = s.work := rfl
@[simp] theorem setOutbuf_rst (S : List Byte) (s : State) : (s.setOutbuf S).rst = s.rst := rfl
@[simp] theorem setOutbuf_port (S : List Byte) (s : State) : (s.setOutbuf S).port = s.port := rfl
@[simp] theorem setOutbuf_inbox (S : List Byte) (s : State) : (s.setOutbuf S).inbox = s.inbox := rfl
@[simp] theorem setOutbuf_draws (S : List Byte) (s : State) : (s.setOutbuf S).draws = s.draws := rfl

/-! ## accept -/

@[simp] theorem accept_params (w : Word) (s : State) : (s.accept w).params = s.params := rfl
@[simp] theorem accept_v (w : Word) (s : State) : (s.accept w).v = s.v := rfl
@[simp] theorem accept_ctrl (w : Word) (s : State) : (s.accept w).ctrl = s.ctrl := rfl
@[simp] theorem accept_done (w : Word) (s : State) : (s.accept w).done = false := rfl
@[simp] theorem accept_overrun (w : Word) (s : State) : (s.accept w).overrun = s.overrun := rfl
@[simp] theorem accept_errcode (w : Word) (s : State) : (s.accept w).errcode = .none := rfl
@[simp] theorem accept_arg0 (w : Word) (s : State) : (s.accept w).arg0 = s.arg0 := rfl
@[simp] theorem accept_cmd (w : Word) (s : State) : (s.accept w).cmd = w := rfl
@[simp] theorem accept_result (w : Word) (s : State) : (s.accept w).result = s.result := rfl
@[simp] theorem accept_rdSel (w : Word) (s : State) : (s.accept w).rdSel = s.rdSel := rfl
@[simp] theorem accept_rdIdx (w : Word) (s : State) : (s.accept w).rdIdx = s.rdIdx := rfl
@[simp] theorem accept_outbuf (w : Word) (s : State) : (s.accept w).outbuf = s.outbuf := rfl
@[simp] theorem accept_outIdx (w : Word) (s : State) : (s.accept w).outIdx = s.outIdx := rfl
@[simp] theorem accept_phase (w : Word) (s : State) : (s.accept w).phase = .busy := rfl
@[simp] theorem accept_lcmd (w : Word) (s : State) : (s.accept w).lcmd = w := rfl
@[simp] theorem accept_larg0 (w : Word) (s : State) : (s.accept w).larg0 = s.arg0 := rfl
@[simp] theorem accept_lctrl (w : Word) (s : State) : (s.accept w).lctrl = { truncEn := s.ctrl.truncEn, truncLimbs := s.ctrl.truncLimbs } := rfl
@[simp] theorem accept_work (w : Word) (s : State) : (s.accept w).work = s.work := rfl
@[simp] theorem accept_rst (w : Word) (s : State) : (s.accept w).rst = s.rst := rfl
@[simp] theorem accept_port (w : Word) (s : State) : (s.accept w).port = s.port := rfl
@[simp] theorem accept_inbox (w : Word) (s : State) : (s.accept w).inbox = s.inbox := rfl
@[simp] theorem accept_draws (w : Word) (s : State) : (s.accept w).draws = s.draws := rfl

/-! ## overrunSet -/

@[simp] theorem overrunSet_params (s : State) : s.overrunSet.params = s.params := rfl
@[simp] theorem overrunSet_v (s : State) : s.overrunSet.v = s.v := rfl
@[simp] theorem overrunSet_ctrl (s : State) : s.overrunSet.ctrl = s.ctrl := rfl
@[simp] theorem overrunSet_done (s : State) : s.overrunSet.done = s.done := rfl
@[simp] theorem overrunSet_overrun (s : State) : s.overrunSet.overrun = true := rfl
@[simp] theorem overrunSet_errcode (s : State) : s.overrunSet.errcode = s.errcode := rfl
@[simp] theorem overrunSet_arg0 (s : State) : s.overrunSet.arg0 = s.arg0 := rfl
@[simp] theorem overrunSet_cmd (s : State) : s.overrunSet.cmd = s.cmd := rfl
@[simp] theorem overrunSet_result (s : State) : s.overrunSet.result = s.result := rfl
@[simp] theorem overrunSet_rdSel (s : State) : s.overrunSet.rdSel = s.rdSel := rfl
@[simp] theorem overrunSet_rdIdx (s : State) : s.overrunSet.rdIdx = s.rdIdx := rfl
@[simp] theorem overrunSet_outbuf (s : State) : s.overrunSet.outbuf = s.outbuf := rfl
@[simp] theorem overrunSet_outIdx (s : State) : s.overrunSet.outIdx = s.outIdx := rfl
@[simp] theorem overrunSet_phase (s : State) : s.overrunSet.phase = s.phase := rfl
@[simp] theorem overrunSet_lcmd (s : State) : s.overrunSet.lcmd = s.lcmd := rfl
@[simp] theorem overrunSet_larg0 (s : State) : s.overrunSet.larg0 = s.larg0 := rfl
@[simp] theorem overrunSet_lctrl (s : State) : s.overrunSet.lctrl = s.lctrl := rfl
@[simp] theorem overrunSet_work (s : State) : s.overrunSet.work = s.work := rfl
@[simp] theorem overrunSet_rst (s : State) : s.overrunSet.rst = s.rst := rfl
@[simp] theorem overrunSet_port (s : State) : s.overrunSet.port = s.port := rfl
@[simp] theorem overrunSet_inbox (s : State) : s.overrunSet.inbox = s.inbox := rfl
@[simp] theorem overrunSet_draws (s : State) : s.overrunSet.draws = s.draws := rfl

/-! ## finish -/

@[simp] theorem finish_params (c : ErrCode) (s : State) : (s.finish c).params = s.params := rfl
@[simp] theorem finish_v (c : ErrCode) (s : State) : (s.finish c).v = s.v := rfl
@[simp] theorem finish_ctrl (c : ErrCode) (s : State) : (s.finish c).ctrl = s.ctrl := rfl
@[simp] theorem finish_done (c : ErrCode) (s : State) : (s.finish c).done = true := rfl
@[simp] theorem finish_overrun (c : ErrCode) (s : State) : (s.finish c).overrun = s.overrun := rfl
@[simp] theorem finish_errcode (c : ErrCode) (s : State) : (s.finish c).errcode = c := rfl
@[simp] theorem finish_arg0 (c : ErrCode) (s : State) : (s.finish c).arg0 = s.arg0 := rfl
@[simp] theorem finish_cmd (c : ErrCode) (s : State) : (s.finish c).cmd = s.cmd := rfl
@[simp] theorem finish_result (c : ErrCode) (s : State) : (s.finish c).result = s.result := rfl
@[simp] theorem finish_rdSel (c : ErrCode) (s : State) : (s.finish c).rdSel = s.rdSel := rfl
@[simp] theorem finish_rdIdx (c : ErrCode) (s : State) : (s.finish c).rdIdx = s.rdIdx := rfl
@[simp] theorem finish_outbuf (c : ErrCode) (s : State) : (s.finish c).outbuf = s.outbuf := rfl
@[simp] theorem finish_outIdx (c : ErrCode) (s : State) : (s.finish c).outIdx = s.outIdx := rfl
@[simp] theorem finish_phase (c : ErrCode) (s : State) : (s.finish c).phase = .idle := rfl
@[simp] theorem finish_lcmd (c : ErrCode) (s : State) : (s.finish c).lcmd = s.lcmd := rfl
@[simp] theorem finish_larg0 (c : ErrCode) (s : State) : (s.finish c).larg0 = s.larg0 := rfl
@[simp] theorem finish_lctrl (c : ErrCode) (s : State) : (s.finish c).lctrl = s.lctrl := rfl
@[simp] theorem finish_work (c : ErrCode) (s : State) : (s.finish c).work = s.work := rfl
@[simp] theorem finish_rst (c : ErrCode) (s : State) : (s.finish c).rst = s.rst := rfl
@[simp] theorem finish_port (c : ErrCode) (s : State) : (s.finish c).port = s.port := rfl
@[simp] theorem finish_inbox (c : ErrCode) (s : State) : (s.finish c).inbox = s.inbox := rfl
@[simp] theorem finish_draws (c : ErrCode) (s : State) : (s.finish c).draws = s.draws := rfl

/-! ## clearStatus -/

@[simp] theorem clearStatus_params (w : Word) (s : State) : (s.clearStatus w).params = s.params := rfl
@[simp] theorem clearStatus_v (w : Word) (s : State) : (s.clearStatus w).v = s.v := rfl
@[simp] theorem clearStatus_ctrl (w : Word) (s : State) : (s.clearStatus w).ctrl = s.ctrl := rfl
@[simp] theorem clearStatus_done (w : Word) (s : State) : (s.clearStatus w).done = (s.done && !w.getLsbD 1) := rfl
@[simp] theorem clearStatus_overrun (w : Word) (s : State) : (s.clearStatus w).overrun = (s.overrun && !w.getLsbD 3) := rfl
@[simp] theorem clearStatus_errcode (w : Word) (s : State) : (s.clearStatus w).errcode = s.errcode := rfl
@[simp] theorem clearStatus_arg0 (w : Word) (s : State) : (s.clearStatus w).arg0 = s.arg0 := rfl
@[simp] theorem clearStatus_cmd (w : Word) (s : State) : (s.clearStatus w).cmd = s.cmd := rfl
@[simp] theorem clearStatus_result (w : Word) (s : State) : (s.clearStatus w).result = s.result := rfl
@[simp] theorem clearStatus_rdSel (w : Word) (s : State) : (s.clearStatus w).rdSel = s.rdSel := rfl
@[simp] theorem clearStatus_rdIdx (w : Word) (s : State) : (s.clearStatus w).rdIdx = s.rdIdx := rfl
@[simp] theorem clearStatus_outbuf (w : Word) (s : State) : (s.clearStatus w).outbuf = s.outbuf := rfl
@[simp] theorem clearStatus_outIdx (w : Word) (s : State) : (s.clearStatus w).outIdx = s.outIdx := rfl
@[simp] theorem clearStatus_phase (w : Word) (s : State) : (s.clearStatus w).phase = s.phase := rfl
@[simp] theorem clearStatus_lcmd (w : Word) (s : State) : (s.clearStatus w).lcmd = s.lcmd := rfl
@[simp] theorem clearStatus_larg0 (w : Word) (s : State) : (s.clearStatus w).larg0 = s.larg0 := rfl
@[simp] theorem clearStatus_lctrl (w : Word) (s : State) : (s.clearStatus w).lctrl = s.lctrl := rfl
@[simp] theorem clearStatus_work (w : Word) (s : State) : (s.clearStatus w).work = s.work := rfl
@[simp] theorem clearStatus_rst (w : Word) (s : State) : (s.clearStatus w).rst = s.rst := rfl
@[simp] theorem clearStatus_port (w : Word) (s : State) : (s.clearStatus w).port = s.port := rfl
@[simp] theorem clearStatus_inbox (w : Word) (s : State) : (s.clearStatus w).inbox = s.inbox := rfl
@[simp] theorem clearStatus_draws (w : Word) (s : State) : (s.clearStatus w).draws = s.draws := rfl

/-! ## drawWork -/

@[simp] theorem drawWork_params (s : State) : s.drawWork.params = s.params := rfl
@[simp] theorem drawWork_v (s : State) : s.drawWork.v = s.v := rfl
@[simp] theorem drawWork_ctrl (s : State) : s.drawWork.ctrl = s.ctrl := rfl
@[simp] theorem drawWork_done (s : State) : s.drawWork.done = s.done := rfl
@[simp] theorem drawWork_overrun (s : State) : s.drawWork.overrun = s.overrun := rfl
@[simp] theorem drawWork_errcode (s : State) : s.drawWork.errcode = s.errcode := rfl
@[simp] theorem drawWork_arg0 (s : State) : s.drawWork.arg0 = s.arg0 := rfl
@[simp] theorem drawWork_cmd (s : State) : s.drawWork.cmd = s.cmd := rfl
@[simp] theorem drawWork_result (s : State) : s.drawWork.result = s.result := rfl
@[simp] theorem drawWork_rdSel (s : State) : s.drawWork.rdSel = s.rdSel := rfl
@[simp] theorem drawWork_rdIdx (s : State) : s.drawWork.rdIdx = s.rdIdx := rfl
@[simp] theorem drawWork_outbuf (s : State) : s.drawWork.outbuf = s.outbuf := rfl
@[simp] theorem drawWork_outIdx (s : State) : s.drawWork.outIdx = s.outIdx := rfl
@[simp] theorem drawWork_phase (s : State) : s.drawWork.phase = s.phase := rfl
@[simp] theorem drawWork_lcmd (s : State) : s.drawWork.lcmd = s.lcmd := rfl
@[simp] theorem drawWork_larg0 (s : State) : s.drawWork.larg0 = s.larg0 := rfl
@[simp] theorem drawWork_lctrl (s : State) : s.drawWork.lctrl = s.lctrl := rfl
@[simp] theorem drawWork_work (s : State) : s.drawWork.work = freeWork s.params s.draws := rfl
@[simp] theorem drawWork_rst (s : State) : s.drawWork.rst = s.rst := rfl
@[simp] theorem drawWork_port (s : State) : s.drawWork.port = s.port := rfl
@[simp] theorem drawWork_inbox (s : State) : s.drawWork.inbox = s.inbox := rfl
@[simp] theorem drawWork_draws (s : State) : s.drawWork.draws = s.draws + 1 := rfl

/-! ## withInbox -/

@[simp] theorem withInbox_params (es : List Event) (s : State) : (s.withInbox es).params = s.params := rfl
@[simp] theorem withInbox_v (es : List Event) (s : State) : (s.withInbox es).v = s.v := rfl
@[simp] theorem withInbox_ctrl (es : List Event) (s : State) : (s.withInbox es).ctrl = s.ctrl := rfl
@[simp] theorem withInbox_done (es : List Event) (s : State) : (s.withInbox es).done = s.done := rfl
@[simp] theorem withInbox_overrun (es : List Event) (s : State) : (s.withInbox es).overrun = s.overrun := rfl
@[simp] theorem withInbox_errcode (es : List Event) (s : State) : (s.withInbox es).errcode = s.errcode := rfl
@[simp] theorem withInbox_arg0 (es : List Event) (s : State) : (s.withInbox es).arg0 = s.arg0 := rfl
@[simp] theorem withInbox_cmd (es : List Event) (s : State) : (s.withInbox es).cmd = s.cmd := rfl
@[simp] theorem withInbox_result (es : List Event) (s : State) : (s.withInbox es).result = s.result := rfl
@[simp] theorem withInbox_rdSel (es : List Event) (s : State) : (s.withInbox es).rdSel = s.rdSel := rfl
@[simp] theorem withInbox_rdIdx (es : List Event) (s : State) : (s.withInbox es).rdIdx = s.rdIdx := rfl
@[simp] theorem withInbox_outbuf (es : List Event) (s : State) : (s.withInbox es).outbuf = s.outbuf := rfl
@[simp] theorem withInbox_outIdx (es : List Event) (s : State) : (s.withInbox es).outIdx = s.outIdx := rfl
@[simp] theorem withInbox_phase (es : List Event) (s : State) : (s.withInbox es).phase = s.phase := rfl
@[simp] theorem withInbox_lcmd (es : List Event) (s : State) : (s.withInbox es).lcmd = s.lcmd := rfl
@[simp] theorem withInbox_larg0 (es : List Event) (s : State) : (s.withInbox es).larg0 = s.larg0 := rfl
@[simp] theorem withInbox_lctrl (es : List Event) (s : State) : (s.withInbox es).lctrl = s.lctrl := rfl
@[simp] theorem withInbox_work (es : List Event) (s : State) : (s.withInbox es).work = s.work := rfl
@[simp] theorem withInbox_rst (es : List Event) (s : State) : (s.withInbox es).rst = s.rst := rfl
@[simp] theorem withInbox_port (es : List Event) (s : State) : (s.withInbox es).port = s.port := rfl
@[simp] theorem withInbox_inbox (es : List Event) (s : State) : (s.withInbox es).inbox = es := rfl
@[simp] theorem withInbox_draws (es : List Event) (s : State) : (s.withInbox es).draws = s.draws := rfl

/-! ## respond -/

@[simp] theorem respond_params (a : Port) (s : State) : (s.respond a).params = s.params := rfl
@[simp] theorem respond_v (a : Port) (s : State) : (s.respond a).v = s.v := rfl
@[simp] theorem respond_ctrl (a : Port) (s : State) : (s.respond a).ctrl = s.ctrl := rfl
@[simp] theorem respond_done (a : Port) (s : State) : (s.respond a).done = s.done := rfl
@[simp] theorem respond_overrun (a : Port) (s : State) : (s.respond a).overrun = s.overrun := rfl
@[simp] theorem respond_errcode (a : Port) (s : State) : (s.respond a).errcode = s.errcode := rfl
@[simp] theorem respond_arg0 (a : Port) (s : State) : (s.respond a).arg0 = s.arg0 := rfl
@[simp] theorem respond_cmd (a : Port) (s : State) : (s.respond a).cmd = s.cmd := rfl
@[simp] theorem respond_result (a : Port) (s : State) : (s.respond a).result = s.result := rfl
@[simp] theorem respond_rdSel (a : Port) (s : State) : (s.respond a).rdSel = s.rdSel := rfl
@[simp] theorem respond_rdIdx (a : Port) (s : State) : (s.respond a).rdIdx = s.rdIdx := rfl
@[simp] theorem respond_outbuf (a : Port) (s : State) : (s.respond a).outbuf = s.outbuf := rfl
@[simp] theorem respond_outIdx (a : Port) (s : State) : (s.respond a).outIdx = s.outIdx := rfl
@[simp] theorem respond_phase (a : Port) (s : State) : (s.respond a).phase = s.phase := rfl
@[simp] theorem respond_lcmd (a : Port) (s : State) : (s.respond a).lcmd = s.lcmd := rfl
@[simp] theorem respond_larg0 (a : Port) (s : State) : (s.respond a).larg0 = s.larg0 := rfl
@[simp] theorem respond_lctrl (a : Port) (s : State) : (s.respond a).lctrl = s.lctrl := rfl
@[simp] theorem respond_work (a : Port) (s : State) : (s.respond a).work = s.work := rfl
@[simp] theorem respond_rst (a : Port) (s : State) : (s.respond a).rst = s.rst := rfl
@[simp] theorem respond_port (a : Port) (s : State) : (s.respond a).port = a := rfl
@[simp] theorem respond_inbox (a : Port) (s : State) : (s.respond a).inbox = s.inbox := rfl
@[simp] theorem respond_draws (a : Port) (s : State) : (s.respond a).draws = s.draws := rfl

/-! ## releaseReset -/

@[simp] theorem releaseReset_params (s : State) : s.releaseReset.params = s.params := rfl
@[simp] theorem releaseReset_v (s : State) : s.releaseReset.v = s.v := rfl
@[simp] theorem releaseReset_ctrl (s : State) : s.releaseReset.ctrl = s.ctrl := rfl
@[simp] theorem releaseReset_done (s : State) : s.releaseReset.done = s.done := rfl
@[simp] theorem releaseReset_overrun (s : State) : s.releaseReset.overrun = s.overrun := rfl
@[simp] theorem releaseReset_errcode (s : State) : s.releaseReset.errcode = s.errcode := rfl
@[simp] theorem releaseReset_arg0 (s : State) : s.releaseReset.arg0 = s.arg0 := rfl
@[simp] theorem releaseReset_cmd (s : State) : s.releaseReset.cmd = s.cmd := rfl
@[simp] theorem releaseReset_result (s : State) : s.releaseReset.result = s.result := rfl
@[simp] theorem releaseReset_rdSel (s : State) : s.releaseReset.rdSel = s.rdSel := rfl
@[simp] theorem releaseReset_rdIdx (s : State) : s.releaseReset.rdIdx = s.rdIdx := rfl
@[simp] theorem releaseReset_outbuf (s : State) : s.releaseReset.outbuf = s.outbuf := rfl
@[simp] theorem releaseReset_outIdx (s : State) : s.releaseReset.outIdx = s.outIdx := rfl
@[simp] theorem releaseReset_phase (s : State) : s.releaseReset.phase = s.phase := rfl
@[simp] theorem releaseReset_lcmd (s : State) : s.releaseReset.lcmd = s.lcmd := rfl
@[simp] theorem releaseReset_larg0 (s : State) : s.releaseReset.larg0 = s.larg0 := rfl
@[simp] theorem releaseReset_lctrl (s : State) : s.releaseReset.lctrl = s.lctrl := rfl
@[simp] theorem releaseReset_work (s : State) : s.releaseReset.work = s.work := rfl
@[simp] theorem releaseReset_rst (s : State) : s.releaseReset.rst = false := rfl
@[simp] theorem releaseReset_port (s : State) : s.releaseReset.port = s.port := rfl
@[simp] theorem releaseReset_inbox (s : State) : s.releaseReset.inbox = s.inbox := rfl
@[simp] theorem releaseReset_draws (s : State) : s.releaseReset.draws = s.draws := rfl

/-! ## assertReset -/

@[simp] theorem assertReset_params (s : State) : s.assertReset.params = s.params := rfl
@[simp] theorem assertReset_v (s : State) : s.assertReset.v = (State.resetWith s.params).v := rfl
@[simp] theorem assertReset_ctrl (s : State) : s.assertReset.ctrl = (State.resetWith s.params).ctrl := rfl
@[simp] theorem assertReset_done (s : State) : s.assertReset.done = (State.resetWith s.params).done := rfl
@[simp] theorem assertReset_overrun (s : State) : s.assertReset.overrun = (State.resetWith s.params).overrun := rfl
@[simp] theorem assertReset_errcode (s : State) : s.assertReset.errcode = (State.resetWith s.params).errcode := rfl
@[simp] theorem assertReset_arg0 (s : State) : s.assertReset.arg0 = (State.resetWith s.params).arg0 := rfl
@[simp] theorem assertReset_cmd (s : State) : s.assertReset.cmd = (State.resetWith s.params).cmd := rfl
@[simp] theorem assertReset_result (s : State) : s.assertReset.result = (State.resetWith s.params).result := rfl
@[simp] theorem assertReset_rdSel (s : State) : s.assertReset.rdSel = (State.resetWith s.params).rdSel := rfl
@[simp] theorem assertReset_rdIdx (s : State) : s.assertReset.rdIdx = (State.resetWith s.params).rdIdx := rfl
@[simp] theorem assertReset_outbuf (s : State) : s.assertReset.outbuf = (State.resetWith s.params).outbuf := rfl
@[simp] theorem assertReset_outIdx (s : State) : s.assertReset.outIdx = (State.resetWith s.params).outIdx := rfl
@[simp] theorem assertReset_phase (s : State) : s.assertReset.phase = (State.resetWith s.params).phase := rfl
@[simp] theorem assertReset_lcmd (s : State) : s.assertReset.lcmd = (State.resetWith s.params).lcmd := rfl
@[simp] theorem assertReset_larg0 (s : State) : s.assertReset.larg0 = (State.resetWith s.params).larg0 := rfl
@[simp] theorem assertReset_lctrl (s : State) : s.assertReset.lctrl = (State.resetWith s.params).lctrl := rfl
@[simp] theorem assertReset_work (s : State) : s.assertReset.work = freeWork s.params s.draws := rfl
@[simp] theorem assertReset_rst (s : State) : s.assertReset.rst = true := rfl
@[simp] theorem assertReset_port (s : State) : s.assertReset.port = s.port := rfl
@[simp] theorem assertReset_inbox (s : State) : s.assertReset.inbox = s.inbox := rfl
@[simp] theorem assertReset_draws (s : State) : s.assertReset.draws = s.draws + 1 := rfl

end Sys2Proof.Machine
end

