-- ==== Sys2Proof/Laws/Ops.lean ====
section
/-!
SUPPORT. What each shared operation can do, said once: values and canonical forms (R10), the capacity check, register
reads after writes, completion, and the canonical-register check.
-/

namespace Sys2Proof.Machine

open Sys2Proof.Config

/-! ## Parameters -/

theorem radix_pos_of_wf {p : Params} (h : p.wf = true) : 10 ≤ p.radix := by
  simp only [Params.wf, Bool.and_eq_true, decide_eq_true_eq] at h
  calc 10 = 10 ^ 1 := rfl
    _ ≤ 10 ^ p.limbDigits := Nat.pow_le_pow_right (by decide) h.1.1.1

theorem radix_le_of_wf {p : Params} (h : p.wf = true) : p.radix ≤ 10 ^ 9 := by
  simp only [Params.wf, Bool.and_eq_true, decide_eq_true_eq] at h
  exact Nat.pow_le_pow_right (by decide) h.1.1.2

/-- The overflow bound of R8: B^2 < 2^64. -/
theorem radix_sq_lt_of_wf {p : Params} (h : p.wf = true) : p.radix ^ 2 < 2 ^ 64 :=
  lt_of_le_of_lt (Nat.pow_le_pow_left (radix_le_of_wf h) 2) (by decide)

theorem three_le_maxLimbs_of_wf {p : Params} (h : p.wf = true) : 3 ≤ p.maxLimbs := by
  simp only [Params.wf, Bool.and_eq_true, decide_eq_true_eq] at h
  exact h.1.2

/-! ## Values and canonical forms (R10) -/

@[simp] theorem val_nil (B : Nat) : val B [] = 0 := rfl

@[simp] theorem val_cons (B : Nat) (l : Limb) (ls : BigUint) : val B (l :: ls) = l.toNat + B * val B ls := rfl

@[simp] theorem canon_zero (B : Nat) : canon B 0 = [] := rfl

/-- `digits` with enough fuel spells its argument. -/
theorem val_digits {B : Nat} (hB : B ≤ 2 ^ 32) (hpos : 0 < B) :
    ∀ fuel x, x < B ^ fuel → val B (digits B fuel x) = x := by
  intro fuel
  induction fuel with
  | zero => intro x h; simp at h; simp [digits, h]
  | succ n ih =>
    intro x h
    by_cases hx : x = 0
    · simp [digits, hx]
    · have hq : x / B < B ^ n := Nat.div_lt_of_lt_mul (by rwa [pow_succ'] at h)
      have hm : x % B < 2 ^ 32 := lt_of_lt_of_le (Nat.mod_lt _ hpos) hB
      simp only [digits, hx, if_false, val_cons, ih _ hq, BitVec.toNat_ofNat, Nat.mod_eq_of_lt hm]
      exact Nat.mod_add_div x B

/-- The fuel of `canon` is enough. -/
theorem lt_pow_log2_succ {B : Nat} (hB : 2 ≤ B) (x : Nat) : x < B ^ (x.log2 + 1) :=
  lt_of_lt_of_le Nat.lt_log2_self (Nat.pow_le_pow_left hB _)

/-- `val(canon(x)) = x` (R10). -/
theorem val_canon {B : Nat} (h2 : 2 ≤ B) (hB : B ≤ 2 ^ 32) (x : Nat) : val B (canon B x) = x :=
  val_digits hB (by omega) _ _ (lt_pow_log2_succ h2 x)

/-- Every limb of `digits` is below B. -/
theorem digits_lt {B : Nat} (hB : B ≤ 2 ^ 32) (hpos : 0 < B) :
    ∀ fuel x, ∀ l ∈ digits B fuel x, l.toNat < B := by
  intro fuel
  induction fuel with
  | zero => intro x l h; simp [digits] at h
  | succ n ih =>
    intro x l h
    by_cases hx : x = 0
    · simp [digits, hx] at h
    · have hm : x % B < B := Nat.mod_lt _ hpos
      simp only [digits, hx, if_false, List.mem_cons] at h
      rcases h with rfl | h
      · rw [BitVec.toNat_ofNat, Nat.mod_eq_of_lt (lt_of_lt_of_le hm hB)]; exact hm
      · exact ih _ _ h

/-- Every limb of `canon` is below B: invariant (1) of R21. -/
theorem canon_lt {B : Nat} (h2 : 2 ≤ B) (hB : B ≤ 2 ^ 32) (x : Nat) : ∀ l ∈ canon B x, l.toNat < B :=
  digits_lt hB (by omega) _ _

/-- `digits` with enough fuel is empty only for 0. -/
theorem digits_eq_nil {B : Nat} (fuel x : Nat) (hx : x ≠ 0) (h : x < B ^ fuel) : digits B fuel x ≠ [] := by
  cases fuel with
  | zero => simp at h; exact absurd h hx
  | succ n => simp [digits, hx]

/-- `digits` with enough fuel has no top zero limb. -/
theorem digits_getLast {B : Nat} (hB : B ≤ 2 ^ 32) (hpos : 0 < B) :
    ∀ fuel x, x < B ^ fuel → (digits B fuel x).getLast? ≠ some 0 := by
  intro fuel
  induction fuel with
  | zero => intro x _; simp [digits]
  | succ n ih =>
    intro x h
    by_cases hx : x = 0
    · simp [digits, hx]
    · have hq : x / B < B ^ n := Nat.div_lt_of_lt_mul (by rwa [pow_succ'] at h)
      have hm : x % B < 2 ^ 32 := lt_of_lt_of_le (Nat.mod_lt _ hpos) hB
      simp only [digits, hx, if_false]
      by_cases hz : x / B = 0
      · have hnil : digits B n (x / B) = [] := by cases n <;> simp [digits, hz]
        rw [hnil]
        have hxB : x % B = x := by
          have := Nat.mod_add_div x B
          rw [hz] at this
          simpa using this
        intro hc
        simp only [List.getLast?_singleton, Option.some.injEq] at hc
        have hn := congrArg BitVec.toNat hc
        rw [BitVec.toNat_ofNat, Nat.mod_eq_of_lt hm, hxB] at hn
        exact hx hn
      · obtain ⟨d, ds, hd⟩ := List.exists_cons_of_ne_nil (digits_eq_nil n (x / B) hz hq)
        have := ih (x / B) hq
        rw [hd] at this ⊢
        rwa [List.getLast?_cons_cons]

/-- `canon` has no top zero limb: invariant (2) of R21. -/
theorem canon_getLast {B : Nat} (h2 : 2 ≤ B) (hB : B ≤ 2 ^ 32) (x : Nat) : (canon B x).getLast? ≠ some 0 :=
  digits_getLast hB (by omega) _ _ (lt_pow_log2_succ h2 x)

/-- A limb sequence with limbs below B is worth less than B^len. -/
theorem val_lt_pow {B : Nat} : ∀ L : BigUint, (∀ l ∈ L, l.toNat < B) → val B L < B ^ L.length := by
  intro L
  induction L with
  | nil => intro _; simp
  | cons l ls ih =>
    intro h
    have h1 : l.toNat < B := h l (by simp)
    have h2 : val B ls < B ^ ls.length := ih fun x hx => h x (by simp [hx])
    rw [val_cons, List.length_cons, pow_succ']
    calc l.toNat + B * val B ls < B + B * val B ls := by omega
      _ = B * (val B ls + 1) := by ring
      _ ≤ B * B ^ ls.length := Nat.mul_le_mul_left _ h2

/-- A nonempty limb sequence with no top zero limb is worth at least B^(len - 1). -/
theorem pow_le_val {B : Nat} : ∀ L : BigUint, L ≠ [] → L.getLast? ≠ some 0 → B ^ (L.length - 1) ≤ val B L := by
  intro L
  induction L with
  | nil => intro h; exact absurd rfl h
  | cons l ls ih =>
    intro _ hlast
    cases ls with
    | nil =>
      have hl : l ≠ 0 := by simpa using hlast
      have : l.toNat ≠ 0 := fun h => hl (BitVec.eq_of_toNat_eq (by simpa using h))
      simp only [List.length_singleton, Nat.sub_self, pow_zero, val_cons, val_nil]
      omega
    | cons m ms =>
      have := ih (by simp) (by rwa [List.getLast?_cons_cons] at hlast)
      rw [val_cons]
      simp only [List.length_cons, Nat.add_sub_cancel] at this ⊢
      calc B ^ (ms.length + 1) = B * B ^ ms.length := pow_succ' _ _
        _ ≤ B * val B (m :: ms) := Nat.mul_le_mul_left _ this
        _ ≤ _ := Nat.le_add_left _ _

/-- Two limb sequences with limbs below B, no top zero limb and the same value are the same (R10, uniqueness). -/
theorem eq_of_val_eq {B : Nat} (h2 : 2 ≤ B) : ∀ L M : BigUint, (∀ l ∈ L, l.toNat < B) → (∀ l ∈ M, l.toNat < B) →
    L.getLast? ≠ some 0 → M.getLast? ≠ some 0 → val B L = val B M → L = M := by
  have zero_of : ∀ L : BigUint, L.getLast? ≠ some 0 → val B L = 0 → L = [] := by
    intro L hl hv
    by_contra hne
    have := pow_le_val (B := B) L hne hl
    have := Nat.pow_pos (n := L.length - 1) (show 0 < B by omega)
    omega
  have tail_last : ∀ (l : Limb) (ls : BigUint), (l :: ls).getLast? ≠ some 0 → ls.getLast? ≠ some 0 := by
    intro l ls h
    cases ls with
    | nil => simp
    | cons m ms => rwa [List.getLast?_cons_cons] at h
  intro L
  induction L with
  | nil => intro M _ _ _ hM hv; exact (zero_of M hM hv.symm).symm
  | cons l ls ih =>
    intro M hL hM hlL hlM hv
    cases M with
    | nil => exact zero_of _ hlL hv
    | cons m ms =>
      have h1 : l.toNat < B := hL l (by simp)
      have h1' : m.toNat < B := hM m (by simp)
      rw [val_cons, val_cons] at hv
      have hmod : l.toNat = m.toNat := by
        have := congrArg (· % B) hv
        simpa [Nat.add_mul_mod_self_left, Nat.mod_eq_of_lt h1, Nat.mod_eq_of_lt h1'] using this
      have hdiv : val B ls = val B ms := by
        have : B * val B ls = B * val B ms := by omega
        exact Nat.eq_of_mul_eq_mul_left (by omega) this
      rw [BitVec.eq_of_toNat_eq hmod, ih ms (fun x hx => hL x (by simp [hx])) (fun x hx => hM x (by simp [hx]))
        (tail_last _ _ hlL) (tail_last _ _ hlM) hdiv]

/-- What `canonicalBig` checks. -/
theorem canonicalBig_iff (p : Params) (L : BigUint) :
    canonicalBig p L = true ↔ (∀ l ∈ L, l.toNat < p.radix) ∧ L.getLast? ≠ some 0 ∧ L.length ≤ p.maxLimbs := by
  simp [canonicalBig, and_assoc]

/-- `V[i] = canon(val(V[i]))` for a canonical register (R21). -/
theorem canon_val {p : Params} (hp : p.wf = true) {L : BigUint} (h : canonicalBig p L = true) :
    canon p.radix (val p.radix L) = L := by
  obtain ⟨hlt, hlast, -⟩ := (canonicalBig_iff p L).1 h
  have h10 := radix_pos_of_wf hp
  have hle := radix_le_of_wf hp
  have h2 : 2 ≤ p.radix := by omega
  have hB : p.radix ≤ 2 ^ 32 := hle.trans (by decide)
  exact eq_of_val_eq h2 _ _ (canon_lt h2 hB _) hlt (canon_getLast h2 hB _) hlast (val_canon h2 hB _)

/-- `val(canon(x)) = x` for the parameters of R5 (R10). -/
theorem val_canon_of_wf {p : Params} (hp : p.wf = true) (x : Nat) : val p.radix (canon p.radix x) = x :=
  val_canon (by have := radix_pos_of_wf hp; omega) ((radix_le_of_wf hp).trans (by decide)) x

/-- How many limbs a number needs (R10, R125): at most k exactly when it is below B^k. -/
theorem canon_length_le_iff {B : Nat} (h2 : 2 ≤ B) (hB : B ≤ 2 ^ 32) (x k : Nat) :
    (canon B x).length ≤ k ↔ x < B ^ k := by
  have hv := val_canon h2 hB x
  have hlt := val_lt_pow _ (canon_lt h2 hB x)
  rw [hv] at hlt
  constructor
  · intro h
    exact lt_of_lt_of_le hlt (Nat.pow_le_pow_right (by omega) h)
  · intro h
    by_contra hc
    have hne : canon B x ≠ [] := by
      intro he
      rw [he] at hc
      simp at hc
    have hlow := pow_le_val (B := B) _ hne (canon_getLast h2 hB x)
    rw [hv] at hlow
    have : B ^ k ≤ B ^ ((canon B x).length - 1) := Nat.pow_le_pow_right (by omega) (by omega)
    omega

/-- The canonical form of a number below B^MAXLIMBS is a canonical register value (R21). -/
theorem canonicalBig_canon {p : Params} (hp : p.wf = true) {x : Nat} (hx : x < p.radix ^ p.maxLimbs) :
    canonicalBig p (canon p.radix x) = true := by
  have h2 : 2 ≤ p.radix := by have := radix_pos_of_wf hp; omega
  have hB : p.radix ≤ 2 ^ 32 := (radix_le_of_wf hp).trans (by decide)
  exact (canonicalBig_iff p _).2 ⟨canon_lt h2 hB x, canon_getLast h2 hB x, (canon_length_le_iff h2 hB x _).2 hx⟩

/-- A canonical register is worth less than B^MAXLIMBS. -/
theorem val_lt_of_canonical {p : Params} (hp : p.wf = true) {L : BigUint} (h : canonicalBig p L = true) :
    val p.radix L < p.radix ^ p.maxLimbs := by
  obtain ⟨hlt, -, hlen⟩ := (canonicalBig_iff p L).1 h
  have h10 := radix_pos_of_wf hp
  exact lt_of_lt_of_le (val_lt_pow L hlt) (Nat.pow_le_pow_right (by omega) hlen)

/-! ## The capacity check (R6, R168) -/

/-- `fit` succeeds exactly on sequences of at most MAXLIMBS limbs, unchanged. -/
theorem fit_cases (p : Params) (L : BigUint) :
    (L.length ≤ p.maxLimbs ∧ fit p L = .ok L) ∨ (p.maxLimbs < L.length ∧ fit p L = .error .capacity) := by
  unfold fit
  by_cases h : L.length > p.maxLimbs
  · exact .inr ⟨h, if_pos h⟩
  · exact .inl ⟨by omega, if_neg h⟩

/-- `fit` of a canonical form: it depends on the value alone. -/
theorem fit_canon {p : Params} (hp : p.wf = true) (x : Nat) :
    fit p (canon p.radix x) = if x < p.radix ^ p.maxLimbs then .ok (canon p.radix x) else .error .capacity := by
  have h2 : 2 ≤ p.radix := by have := radix_pos_of_wf hp; omega
  have hB : p.radix ≤ 2 ^ 32 := (radix_le_of_wf hp).trans (by decide)
  have hiff := canon_length_le_iff h2 hB x p.maxLimbs
  rcases fit_cases p (canon p.radix x) with ⟨hl, he⟩ | ⟨hl, he⟩
  · rw [he, if_pos (hiff.1 hl)]
  · rw [he, if_neg fun hx => absurd (hiff.2 hx) (by omega)]

/-- `fitMat` succeeds exactly when every cell has at most MAXLIMBS limbs, and leaves the matrix unchanged. -/
theorem fitMat_cases (p : Params) (R : Mat BigUint) :
    ((R.c00.length ≤ p.maxLimbs ∧ R.c01.length ≤ p.maxLimbs ∧ R.c10.length ≤ p.maxLimbs ∧
        R.c11.length ≤ p.maxLimbs) ∧ fitMat p R = .ok R) ∨
      (¬(R.c00.length ≤ p.maxLimbs ∧ R.c01.length ≤ p.maxLimbs ∧ R.c10.length ≤ p.maxLimbs ∧
        R.c11.length ≤ p.maxLimbs) ∧ fitMat p R = .error .capacity) := by
  unfold fitMat
  split
  · exact .inr ⟨by omega, rfl⟩
  · exact .inl ⟨by omega, rfl⟩

/-! ## Register reads after writes (R11, R22, R23) -/

@[simp] theorem V_setV_same (i : VReg) (L : BigUint) (s : State) : (s.setV i L).V i = L := by
  simp [State.V, State.setV]

theorem V_setV_other {i j : VReg} (h : j ≠ i) (L : BigUint) (s : State) : (s.setV i L).V j = s.V j := by
  have : i.toNat ≠ j.toNat := fun he => h (BitVec.eq_of_toNat_eq he.symm)
  simp [State.V, State.setV, this]

theorem V_setV (i j : VReg) (L : BigUint) (s : State) : (s.setV i L).V j = if j = i then L else s.V j := by
  by_cases h : j = i
  · subst h; simp
  · simp [h, V_setV_other h]

@[simp] theorem V_finish (c : ErrCode) (s : State) (i : VReg) : (s.finish c).V i = s.V i := rfl

@[simp] theorem V_drawWork (s : State) (i : VReg) : s.drawWork.V i = s.V i := rfl

@[simp] theorem V_withInbox (es : List Event) (s : State) (i : VReg) : (s.withInbox es).V i = s.V i := rfl

/-- A matrix operand 0 to 3 names the registers 4k to 4k + 3 (R22). -/
theorem cellReg_toNat {k : MReg} (hk : mfieldOk k = true) {c : Nat} (hc : c < 4) :
    (cellReg k c).toNat = 4 * k.toNat + c := by
  simp only [mfieldOk, decide_eq_true_eq] at hk
  simp only [cellReg, BitVec.toNat_ofNat]
  omega

/-- The cells of different numbers are different registers. -/
theorem cellReg_ne (k : MReg) {c d : Nat} (hc : c < 4) (hd : d < 4) (h : c ≠ d) : cellReg k c ≠ cellReg k d := by
  intro he
  have := congrArg BitVec.toNat he
  simp only [cellReg, BitVec.toNat_ofNat] at this
  omega

/-- A write of `M[k]` and the read of it (R22). -/
@[simp] theorem M_setM_same (k : MReg) (R : Mat BigUint) (s : State) : (s.setM k R).M k = R := by
  have h01 := cellReg_ne k (c := 0) (d := 1) (by decide) (by decide) (by decide)
  have h02 := cellReg_ne k (c := 0) (d := 2) (by decide) (by decide) (by decide)
  have h03 := cellReg_ne k (c := 0) (d := 3) (by decide) (by decide) (by decide)
  have h12 := cellReg_ne k (c := 1) (d := 2) (by decide) (by decide) (by decide)
  have h13 := cellReg_ne k (c := 1) (d := 3) (by decide) (by decide) (by decide)
  have h23 := cellReg_ne k (c := 2) (d := 3) (by decide) (by decide) (by decide)
  simp [State.M, State.setM, V_setV, h01, h02, h03, h12, h13, h23]

/-- A write of `M[k]` leaves every register that is none of its four cells. -/
theorem V_setM_other {k : MReg} {i : VReg} (R : Mat BigUint) (s : State)
    (h0 : i ≠ cellReg k 0) (h1 : i ≠ cellReg k 1) (h2 : i ≠ cellReg k 2) (h3 : i ≠ cellReg k 3) :
    (s.setM k R).V i = s.V i := by
  simp [State.setM, V_setV, h0, h1, h2, h3]

/-! ## Completion (R92, R201) -/

@[simp] theorem complete_ok (s t : State) : s.complete (.ok t) = .next (t.finish .none) := rfl

@[simp] theorem complete_error (s : State) (c : ErrCode) : s.complete (.error c) = .next (s.finish c) := rfl

@[simp] theorem completeIllegal_eq (s : State) : s.completeIllegal = .next (s.finish .illegalCmd) := rfl

/-- Everything a completion can do: the writes and NONE, or nothing and the error code. -/
theorem complete_cases (s : State) (r : Except ErrCode State) :
    (∃ t, r = .ok t ∧ s.complete r = .next (t.finish .none)) ∨
      (∃ c, r = .error c ∧ s.complete r = .next (s.finish c)) := by
  cases r with
  | ok t => exact .inl ⟨t, rfl, rfl⟩
  | error c => exact .inr ⟨c, rfl, rfl⟩

/-- A sequence of two checks succeeds exactly when both do. -/
theorem bind_ok_iff {α β : Type} (x : Except ErrCode α) (f : α → Except ErrCode β) (b : β) :
    (x >>= f) = .ok b ↔ ∃ a, x = .ok a ∧ f a = .ok b := by
  cases x with
  | ok a =>
    constructor
    · intro h; exact ⟨a, rfl, h⟩
    · rintro ⟨a', h, hf⟩; cases h; exact hf
  | error c =>
    constructor
    · intro h; cases h
    · rintro ⟨_, h, _⟩; cases h

/-! ## Counted products (R164) -/

@[simp] theorem countedFold_result (p : Config.Params) (t : LCtrl) (n : ProductCount) (A X : Mat BigUint) :
    (countedFold p t n A X).2 = store p t (engineProduct p A X) := rfl

@[simp] theorem countedSquare_result (p : Config.Params) (t : LCtrl) (n : ProductCount) (X : Mat BigUint) :
    (countedSquare p t n X).2 = store p t (engineProduct p X X) := rfl

/-- A fold counts once, as a fold. -/
@[simp] theorem countedFold_count (p : Config.Params) (t : LCtrl) (n : ProductCount) (A X : Mat BigUint) :
    (countedFold p t n A X).1 = { n with folds := n.folds + 1 } := rfl

/-- A squaring counts once, as a squaring. -/
@[simp] theorem countedSquare_count (p : Config.Params) (t : LCtrl) (n : ProductCount) (X : Mat BigUint) :
    (countedSquare p t n X).1 = { n with squarings := n.squarings + 1 } := rfl

/-! ## Canonical registers (R21) -/

/-- The canonical check of a state, register by register. -/
theorem canonical_iff (s : State) : s.canonical = true ↔ ∀ i : VReg, canonicalBig s.params (s.V i) = true := by
  simp only [State.canonical, List.all_eq_true, State.V]
  constructor
  · intro h i
    exact h _ (by simp)
  · intro h L hL
    obtain ⟨n, hn, rfl⟩ := List.getElem_of_mem hL
    have hn' : n < 16 := by simpa using hn
    have := h (BitVec.ofNat 4 n)
    simpa [BitVec.toNat_ofNat, Nat.mod_eq_of_lt hn'] using this

/-- Writing a canonical sequence keeps every register canonical. -/
theorem canonical_setV {s : State} (h : s.canonical = true) (i : VReg) {L : BigUint}
    (hL : canonicalBig s.params L = true) : (s.setV i L).canonical = true := by
  rw [canonical_iff] at h ⊢
  intro j
  rw [V_setV]
  split
  · exact hL
  · exact h j

/-- A canonical register of a sound state. -/
theorem sound_V {s : State} (h : s.Sound) (i : VReg) : canonicalBig s.params (s.V i) = true :=
  (canonical_iff s).1 h.canonical i

end Sys2Proof.Machine
end

