-- ==== Sys2Proof/Laws/Operands.lean ====
section
/-!
SUPPORT. What the operand readings (R83) and the family operations (R122, R166 to R168) can do, said once.
-/

namespace Sys2Proof.Machine

/-- `sint64` is the two's-complement reading of a word (R9). -/
theorem sint64_eq_toInt (w : Word) : sint64 w = w.toInt := by
  simp only [sint64, BitVec.toInt_eq_toNat_cond]
  have := w.isLt
  split <;> split <;> omega

/-- VLIMBIN's limb: LARG0 below B, or ILLEGAL_OPERAND (R83, R104). -/
theorem argLimb_cases (s : State) :
    (s.larg0.toNat < s.radix ∧ s.argLimb = .ok s.larg0.toNat) ∨
      (s.radix ≤ s.larg0.toNat ∧ s.argLimb = .error .illegalOperand) := by
  unfold State.argLimb
  split
  · exact .inr ⟨by omega, rfl⟩
  · exact .inl ⟨by omega, rfl⟩

/-- FIB's index: at least 1, or INVALID_INDEX (R83, R180). -/
theorem argIndex_cases (s : State) :
    (1 ≤ s.larg0.toInt ∧ s.argIndex = .ok s.larg0.toInt) ∨
      (s.larg0.toInt < 1 ∧ s.argIndex = .error .invalidIndex) := by
  unfold State.argIndex
  rw [sint64_eq_toInt]
  split
  · exact .inr ⟨by assumption, rfl⟩
  · exact .inl ⟨by omega, rfl⟩

/-- LOWDIG's digit count: at most LIMB_DIGITS, or ILLEGAL_OPERAND (R83, R140). -/
theorem argDigitCount_cases (s : State) :
    (s.larg0.toNat ≤ s.params.limbDigits ∧ s.argDigitCount = .ok s.larg0.toNat) ∨
      (s.params.limbDigits < s.larg0.toNat ∧ s.argDigitCount = .error .illegalOperand) := by
  unfold State.argDigitCount
  split
  · exact .inr ⟨by omega, rfl⟩
  · exact .inl ⟨by omega, rfl⟩

/-- The short-circuit of R122 gives the same sequence as the product's canonical form. -/
theorem mulBig_eq_canon (B : Nat) (a b : BigUint) : mulBig B a b = canon B (val B a * val B b) := by
  unfold mulBig
  split
  · rename_i h
    rcases h with h | h <;> simp [List.length_eq_zero_iff.1 h]
  · rfl

/-- The truncation check of R167 passes exactly on a legal setting. -/
theorem checkTrunc_cases (s : State) :
    (s.truncLegal ∧ checkTrunc s.params s.lctrl = .ok ()) ∨
      (¬s.truncLegal ∧ checkTrunc s.params s.lctrl = .error .badConfig) := by
  unfold checkTrunc
  by_cases h : truncConfigBad s.params s.lctrl = true
  · refine .inr ⟨?_, if_pos h⟩
    simp only [truncConfigBad, Bool.and_eq_true, Bool.or_eq_true, decide_eq_true_eq] at h
    intro hl
    have := hl h.1
    omega
  · refine .inl ⟨?_, if_neg h⟩
    intro ht
    simp only [truncConfigBad, ht, Bool.true_and, Bool.or_eq_true, decide_eq_true_eq, not_or] at h
    omega

/-- A cell of a stored matrix, as a value (R166). -/
theorem val_canon_cell {p : Config.Params} (hp : p.wf = true) (X : Mat Nat) :
    (X.map (canon p.radix)).map (val p.radix) = X := by
  cases X
  simp [Mat.map, val_canon_of_wf hp]

/-- Everything `Store` can do (R168): the truncated matrix where every cell fits, CAPACITY otherwise. -/
theorem store_cases (p : Config.Params) (t : LCtrl) (X : Mat Nat) :
    store p t X = .ok (truncMat p.radix t X) ∨ store p t X = .error .capacity := by
  rcases fitMat_cases p (truncMat p.radix t X) with ⟨-, h⟩ | ⟨-, h⟩
  · exact .inl h
  · exact .inr h

/-- With a legal truncation setting `Store` never raises CAPACITY (R168). -/
theorem store_truncated {p : Config.Params} (hp : p.wf = true) {t : LCtrl} (hen : t.truncEn = true)
    (hK : t.truncLimbs.toNat ≤ p.maxLimbs) (X : Mat Nat) : store p t X = .ok (truncMat p.radix t X) := by
  have h10 := radix_pos_of_wf hp
  have hcell : ∀ x, (canon p.radix (truncValue p.radix t x)).length ≤ p.maxLimbs := by
    intro x
    rw [canon_length_le_iff (by omega) ((radix_le_of_wf hp).trans (by decide))]
    simp only [truncValue, hen, if_true, trunc]
    exact lt_of_lt_of_le (Nat.mod_lt _ (Nat.pow_pos (by omega))) (Nat.pow_le_pow_right (by omega) hK)
  rcases fitMat_cases p (truncMat p.radix t X) with ⟨-, h⟩ | ⟨hn, -⟩
  · exact h
  · exact absurd ⟨hcell _, hcell _, hcell _, hcell _⟩ hn

end Sys2Proof.Machine
end

