-- ==== Sys2Proof/Laws/PerInstr.lean ====
section
/-!
SUPPORT. Per-instruction laws, one lemma per constructor.
-/

namespace Sys2Proof.Laws.CommandFormat

/-- R80, R81: the command's word has no bit above bit 19. -/
def Statement (i : Instr) : Prop := (encode i).toNat < 2 ^ 20

theorem nop : Statement .nop := commandWord_lt _ _ _ _
theorem vzero (rd : VReg) : Statement (.vzero rd) := commandWord_lt _ _ _ _
theorem vconst (rd : VReg) : Statement (.vconst rd) := commandWord_lt _ _ _ _
theorem vmov (rd rs1 : VReg) : Statement (.vmov rd rs1) := commandWord_lt _ _ _ _
theorem vlimbin (rd : VReg) : Statement (.vlimbin rd) := commandWord_lt _ _ _ _
theorem vadd (rd rs1 rs2 : VReg) : Statement (.vadd rd rs1 rs2) := commandWord_lt _ _ _ _
theorem vmul (rd rs1 rs2 : VReg) : Statement (.vmul rd rs1 rs2) := commandWord_lt _ _ _ _
theorem mmul (rd rs1 rs2 : MReg) : Statement (.mmul rd rs1 rs2) := commandWord_lt _ _ _ _
theorem mpow (rd rs1 : MReg) : Statement (.mpow rd rs1) := commandWord_lt _ _ _ _
theorem fib (rd : VReg) : Statement (.fib rd) := commandWord_lt _ _ _ _
theorem lowdig (rs1 : VReg) : Statement (.lowdig rs1) := commandWord_lt _ _ _ _
theorem decstr (rs1 : VReg) : Statement (.decstr rs1) := commandWord_lt _ _ _ _

end Sys2Proof.Laws.CommandFormat
end

