-- ==== Sys2Proof/Laws/Step.lean ====
section
/-!
SUPPORT. What one step can do, said once (R69): the engine's step, a host read, a host write, a change of rst; and how
`Host.Core.run` unfolds.
-/

namespace Sys2Proof.Machine

/-- What the engine's step can do (R92). -/
theorem runEngine_cases {s t : State} (h : s.runEngine = .next t) :
    (s.engineEnabled = false ∧ t = s) ∨
      (s.engineEnabled = true ∧ (∃ e, decode s.lcmd = .error e) ∧ t = s.finish .illegalCmd) ∨
      (s.engineEnabled = true ∧ ∃ i, decode s.lcmd = .ok i ∧ exec i s = .next t) := by
  unfold State.runEngine State.fetch at h
  split at h
  · rename_i hen
    split at h
    · rename_i e he
      cases h
      exact .inr (.inl ⟨hen, ⟨e, he⟩, rfl⟩)
    · rename_i i hi
      exact .inr (.inr ⟨hen, i, hi, h⟩)
  · rename_i hen
    cases h
    exact .inl ⟨by simpa using hen, rfl⟩

/-- What a host read can do (R63, R66, R68, R230). -/
theorem hostRead_cases {s t : State} {off n : Nat} (h : s.hostRead off n = .next t) :
    (s.rst = true ∧ t = s.respond (.data 0)) ∨
      (s.rst = false ∧ accessOk off n = true ∧ s.busy = true ∧ drawnWhileBusy (regAt off) = true ∧
        t = { s with port := .data (Config.freeRead s.draws), draws := s.draws + 1 }) ∨
      (s.rst = false ∧ accessOk off n = true ∧ ¬(s.busy = true ∧ drawnWhileBusy (regAt off) = true) ∧
        t = s.respond (.data (s.readReg (regAt off)))) := by
  unfold State.hostRead at h
  split at h
  · cases h; exact .inl ⟨by assumption, rfl⟩
  · rename_i hr
    split at h
    · cases h
    · rename_i ha
      split at h
      · rename_i hb
        cases h
        simp only [Bool.and_eq_true] at hb
        exact .inr (.inl ⟨by simpa using hr, by simpa using ha, hb.1, hb.2, rfl⟩)
      · rename_i hb
        cases h
        exact .inr (.inr ⟨by simpa using hr, by simpa using ha, by simpa using hb, rfl⟩)

/-- What a host write can do (R63, R66, R230). -/
theorem hostWrite_cases {s t : State} {off n : Nat} {w : Word} (h : s.hostWrite off n w = .next t) :
    (s.rst = true ∧ t = s.respond .done) ∨
      (s.rst = false ∧ accessOk off n = true ∧ t = (s.writeReg (regAt off) w).respond .done) := by
  unfold State.hostWrite at h
  split at h
  · cases h; exact .inl ⟨by assumption, rfl⟩
  · rename_i hr
    split at h
    · cases h
    · rename_i ha
      cases h
      exact .inr ⟨by simpa using hr, by simpa using ha, rfl⟩

/-- What one step can do (R69). -/
theorem step_cases {s t : State} (h : step s = .next t) :
    (s.inbox = [] ∧ s.runEngine = .next t) ∨
      ∃ e rest, s.inbox = e :: rest ∧
        ((e = .engine ∧ (s.withInbox rest).runEngine = .next t) ∨
          (∃ off n, e = .read off n ∧ (s.withInbox rest).hostRead off n = .next t) ∨
          (∃ off n w, e = .write off n w ∧ (s.withInbox rest).hostWrite off n w = .next t) ∨
          (e = .assertRst ∧ t = (s.withInbox rest).assertReset) ∨
          (e = .releaseRst ∧ t = (s.withInbox rest).releaseReset)) := by
  unfold step at h
  split at h
  · exact .inl ⟨by assumption, h⟩
  · exact .inr ⟨_, _, by assumption, .inl ⟨rfl, h⟩⟩
  · exact .inr ⟨_, _, by assumption, .inr (.inl ⟨_, _, rfl, h⟩)⟩
  · exact .inr ⟨_, _, by assumption, .inr (.inr (.inl ⟨_, _, _, rfl, h⟩))⟩
  · cases h; exact .inr ⟨_, _, by assumption, .inr (.inr (.inr (.inl ⟨rfl, rfl⟩)))⟩
  · cases h; exact .inr ⟨_, _, by assumption, .inr (.inr (.inr (.inr ⟨rfl, rfl⟩)))⟩

/-- The only undefined accesses pass the check as R63 says. -/
theorem accessOk_iff (off n : Nat) : accessOk off n = true ↔ n = 8 ∧ off % 8 = 0 ∧ off < 0x100 := by
  simp [accessOk, and_assoc]

/-- The next step of a run. -/
theorem run_succ_next {s t : State} (k : Nat) (h : step s = .next t) :
    Sys2Proof.core.run (k + 1) s = Sys2Proof.core.run k t := by
  have h' : Sys2Proof.core.step s = .next t := h
  simp only [Host.Core.run, h']

/-- A run of no step. -/
theorem run_zero (s : State) : Sys2Proof.core.run 0 s = .next s := rfl

end Sys2Proof.Machine
end

