-- ==== Sys2Proof/Machine/HostProgram.lean ====
section
/-!
DEFINITION. Host programs as lists of events: the assembler lines of R87, the pseudo-instructions of R88 and the boot
sequence of R233. The host is outside FIBCORE; these are the transactions it makes, to be put into a state's inbox.
-/

namespace Sys2Proof.Machine

/-- One aligned 8-byte write. -/
def writeEvent (off : Nat) (w : Word) : Event := .write off 8 w

/-- One aligned 8-byte read. -/
def readEvent (off : Nat) : Event := .read off 8

/-- The commands whose assembler line has a `#` operand (R87). -/
def takesOperand : Instr → Bool
  | .vconst _ | .vlimbin _ | .mpow _ _ | .fib _ | .lowdig _ => true
  | .nop | .vzero _ | .vmov _ _ | .vadd _ _ _ | .vmul _ _ _ | .mmul _ _ _ | .decstr _ => false

/-- One assembler line: a command and, where it takes one, its `#` operand (R87). -/
structure Line where
  /-- The command. -/
  command : Instr
  /-- The `#` operand. -/
  operand : Option Word
deriving DecidableEq, Repr

/-- "A command line with a `#` operand assembles to two host writes ... A command line without one assembles to the single
write" (R87). -/
def lineEvents (l : Line) : List Event :=
  match l.operand with
  | some x => [writeEvent 0x20 x, writeEvent 0x28 (encode l.command)]
  | none => [writeEvent 0x28 (encode l.command)]

/-! ## Reading a line of text (R87) -/

/-- The value of a digit in base `base`, 10 or 16. -/
def charDigit (base : Nat) (c : Char) : Option Nat :=
  let d :=
    if '0' ≤ c ∧ c ≤ '9' then c.toNat - '0'.toNat
    else if 'a' ≤ c ∧ c ≤ 'f' then c.toNat - 'a'.toNat + 10
    else if 'A' ≤ c ∧ c ≤ 'F' then c.toNat - 'A'.toNat + 10
    else 16
  if d < base then some d else none

/-- The number spelled by `cs` after a prefix worth `acc`. -/
def charsNat (base : Nat) : Nat → List Char → Option Nat
  | acc, [] => some acc
  | acc, c :: cs =>
    match charDigit base c with
    | some d => charsNat base (acc * base + d) cs
    | none => none

/-- A nonempty decimal or `0x` hexadecimal number (R87). DESIGN CHOICE (log 19): leading zeros are accepted, hexadecimal
digits in either case, the prefix only as `0x`; R87 does not say. -/
def parseNat : List Char → Option Nat
  | [] => none
  | '0' :: 'x' :: c :: cs => charsNat 16 0 (c :: cs)
  | c :: cs => charsNat 10 0 (c :: cs)

/-- `v0`..`v15` (R87). DESIGN CHOICE (log 19): any spelling `parseNat` reads as 0 to 15 is accepted after the `v`, such as
v007 or v0xF; R87 does not say whether spellings beyond its own are rejected. -/
def parseV : List Char → Option VReg
  | 'v' :: cs =>
    match parseNat cs with
    | some n => if n < 16 then some (BitVec.ofNat 4 n) else none
    | none => none
  | _ => none

/-- `m0`..`m3` (R87). DESIGN CHOICE (log 19): any spelling `parseNat` reads as 0 to 3 is accepted after the `m`, such as
m0x3; R87 does not say whether spellings beyond its own are rejected. -/
def parseM : List Char → Option MReg
  | 'm' :: cs =>
    match parseNat cs with
    | some n => if n < 4 then some (BitVec.ofNat 4 n) else none
    | none => none
  | _ => none

/-- `#value`, the LARG0 operand without a sign (R87). DESIGN CHOICE (log 19): 0 to 2^64 - 1 are accepted and larger numbers
rejected; R87 gives no range. -/
def parseOperand : List Char → Option Word
  | '#' :: cs =>
    match parseNat cs with
    | some n => if n < 2 ^ 64 then some (BitVec.ofNat 64 n) else none
    | none => none
  | _ => none

/-- FIB's operand: also "with a leading minus", "encoded as two's complement in 64 bits" (R87). DESIGN CHOICE (log 19): R87
gives no range. Without a minus 0 to 2^64 - 1 are accepted, so that #2^63 and above assemble to the word of a negative
index; with a minus -2^63 to 0, in decimal or hexadecimal. -/
def parseIndex : List Char → Option Word
  | '#' :: '-' :: cs =>
    match parseNat cs with
    | some n => if n ≤ 2 ^ 63 then some (-(BitVec.ofNat 64 n)) else none
    | none => none
  | cs => parseOperand cs

/-- The words of a line, destination first (R87). DESIGN CHOICE (log 17): they are separated by any spaces and commas. -/
def lineWords : List Char → List Char → List (List Char)
  | word, [] => if word.isEmpty then [] else [word.reverse]
  | word, c :: cs =>
    if c = ' ' ∨ c = ',' then (if word.isEmpty then lineWords [] cs else word.reverse :: lineWords [] cs)
    else lineWords (c :: word) cs

/-- One assembler line (R87), none where it spells no command. DESIGN CHOICE (log 19): mnemonics are in capitals and
register letters in small letters, as R87 writes them, and no other case is accepted. -/
def parseLine (text : List Char) : Option Line :=
  match lineWords [] text with
  | [['N', 'O', 'P']] => some { command := .nop, operand := none }
  | [['V', 'Z', 'E', 'R', 'O'], d] => do
    return { command := .vzero (← parseV d), operand := none }
  | [['V', 'C', 'O', 'N', 'S', 'T'], d, x] => do
    return { command := .vconst (← parseV d), operand := some (← parseOperand x) }
  | [['V', 'M', 'O', 'V'], d, a] => do
    return { command := .vmov (← parseV d) (← parseV a), operand := none }
  | [['V', 'L', 'I', 'M', 'B', 'I', 'N'], d, x] => do
    return { command := .vlimbin (← parseV d), operand := some (← parseOperand x) }
  | [['V', 'A', 'D', 'D'], d, a, b] => do
    return { command := .vadd (← parseV d) (← parseV a) (← parseV b), operand := none }
  | [['V', 'M', 'U', 'L'], d, a, b] => do
    return { command := .vmul (← parseV d) (← parseV a) (← parseV b), operand := none }
  | [['M', 'M', 'U', 'L'], d, a, b] => do
    return { command := .mmul (← parseM d) (← parseM a) (← parseM b), operand := none }
  | [['M', 'P', 'O', 'W'], d, a, x] => do
    return { command := .mpow (← parseM d) (← parseM a), operand := some (← parseOperand x) }
  | [['F', 'I', 'B'], d, x] => do
    return { command := .fib (← parseV d), operand := some (← parseIndex x) }
  | [['L', 'O', 'W', 'D', 'I', 'G'], a, x] => do
    return { command := .lowdig (← parseV a), operand := some (← parseOperand x) }
  | [['D', 'E', 'C', 'S', 'T', 'R'], a] => do
    return { command := .decstr (← parseV a), operand := none }
  | _ => none

/-! ## Pseudo-instructions (R88) -/

/-- `WAIT` (R88), with the completion after `polls` polls that still see BUSY. -/
def waitEvents (polls : Nat) : List Event :=
  List.replicate polls (readEvent 0x18) ++ [.engine, readEvent 0x18]

/-- `CLRDONE` (R88). -/
def clrDoneEvents : List Event := [writeEvent 0x18 0x2]

/-- `CLROVR` (R88). -/
def clrOvrEvents : List Event := [writeEvent 0x18 0x8]

/-- `SETCTRL #v` (R88). -/
def setCtrlEvents (w : Word) : List Event := [writeEvent 0x10 w]

/-- `RDLEN vs` (R88). -/
def rdLenEvents (vs : VReg) : List Event := [writeEvent 0x38 (vs.setWidth 64), readEvent 0x48]

/-- `RDLIMB vs, #j` (R88). -/
def rdLimbEvents (vs : VReg) (j : Word) : List Event :=
  [writeEvent 0x38 (vs.setWidth 64), writeEvent 0x40 j, readEvent 0x50]

/-- `RDRESULT` (R88). -/
def rdResultEvents : List Event := [readEvent 0x30]

/-- `RDSTR` (R88), for a string whose OUT_LEN read returned `len`. -/
def rdStrEvents (len : Nat) : List Event :=
  readEvent 0x58 :: (List.range len).flatMap fun i => [writeEvent 0x60 (BitVec.ofNat 64 i), readEvent 0x68]

/-- Lines each followed by `WAIT` (R88). -/
def waitedLines (polls : Nat) (ls : List Line) : List Event := ls.flatMap fun l => lineEvents l ++ waitEvents polls

/-- `MIDENT mk` (R88). -/
def midentEvents (k : MReg) (polls : Nat) : List Event :=
  waitedLines polls
    [{ command := .vconst (cellReg k 0), operand := some 1 }, { command := .vzero (cellReg k 1), operand := none },
     { command := .vzero (cellReg k 2), operand := none }, { command := .vconst (cellReg k 3), operand := some 1 }]

/-- `MFIBQ mk` (R88). -/
def mfibqEvents (k : MReg) (polls : Nat) : List Event :=
  waitedLines polls
    [{ command := .vconst (cellReg k 0), operand := some 1 }, { command := .vconst (cellReg k 1), operand := some 1 },
     { command := .vconst (cellReg k 2), operand := some 1 }, { command := .vzero (cellReg k 3), operand := none }]

/-- `MMOV md, ms` (R88). -/
def mmovEvents (d k : MReg) (polls : Nat) : List Event :=
  waitedLines polls ((List.range 4).map fun c => { command := .vmov (cellReg d c) (cellReg k c), operand := none })

/-- `MSQR md, ms` (R88). -/
def msqrEvents (d k : MReg) : List Event := lineEvents { command := .mmul d k k, operand := none }

/-- The boot sequence of R233: read CFG0 and CFG1, then write CTRL. -/
def bootEvents (c : Ctrl) : List Event :=
  [readEvent 0x00, readEvent 0x08, writeEvent 0x10 c.word]

end Sys2Proof.Machine
end

