-- ==== Sys2Proof/Tests/Slice0.lean ====
section
/-!
SUPPORT. Tests: words written out from the encoding table (R81, R84), ill-formed terms, one step per vector of
95_test_vectors.md, and for every obligation with hypotheses a state and operands that meet them.
-/

namespace Sys2Proof.Tests

open Sys2Proof Sys2Proof.Machine

/-! ## Decoding, the words from R84 and the vectors -/

theorem test_decode_nop : decode 0x00000000 = .ok .nop := by decide
theorem test_decode_vzero : decode 0x00000501 = .ok (.vzero 5) := by decide
theorem test_decode_vconst : decode 0x00000102 = .ok (.vconst 1) := by decide
theorem test_decode_vmov : decode 0x00001203 = .ok (.vmov 2 1) := by decide
theorem test_decode_vlimbin : decode 0x00000304 = .ok (.vlimbin 3) := by decide
theorem test_decode_vadd : decode 0x00065710 = .ok (.vadd 7 5 6) := by decide
theorem test_decode_vmul : decode 0x00030411 = .ok (.vmul 4 0 3) := by decide
theorem test_decode_mmul : decode 0x00013320 = .ok (.mmul 3 3 1) := by decide
theorem test_decode_mpow : decode 0x00001221 = .ok (.mpow 2 1) := by decide
theorem test_decode_fib : decode 0x00000830 = .ok (.fib 8) := by decide
theorem test_decode_lowdig : decode 0x00001040 = .ok (.lowdig 1) := by decide
theorem test_decode_decstr : decode 0x00002041 = .ok (.decstr 2) := by decide
theorem test_decode_rejects_high_bits : decode 0x0000000100000001 = .error .highBits := by decide
theorem test_decode_rejects_bit_20 : decode 0x00100001 = .error .reservedBits := by decide
theorem test_decode_rejects_opcode_05 : decode 0x00000005 = .error .badOpcode := by decide
theorem test_decode_rejects_unused_rs1 : decode 0x00001001 = .error .unusedField := by decide
theorem test_decode_rejects_m4 : decode 0x00000420 = .error .matrixField := by decide
theorem test_decode_rejects_mpow_rs2 : decode 0x00011021 = .error .unusedField := by decide
theorem test_table_word : decodeTableWord 64 0x00010220 = some (.mmul 2 0 1) := by decide
theorem test_encode_mmul : encode (.mmul 2 0 1) = 0x00010220 := by decide

/-! ## Ill-formed terms, one for each check of `Instr.wf` -/

theorem test_wf_refuses_mmul_rd : (Instr.mmul 4 0 0).wf = false := by decide
theorem test_wf_refuses_mmul_rs1 : (Instr.mmul 0 4 0).wf = false := by decide
theorem test_wf_refuses_mmul_rs2 : (Instr.mmul 0 0 15).wf = false := by decide
theorem test_wf_refuses_mpow_rd : (Instr.mpow 4 0).wf = false := by decide
theorem test_wf_refuses_mpow_rs1 : (Instr.mpow 0 8).wf = false := by decide
theorem test_wf_accepts_m3 : (Instr.mmul 3 3 3).wf = true := by decide

/-! ## One step per vector -/

/-- LIMB_DIGITS = 9 with MAXLIMBS limbs (95_test_vectors.md, Conventions). -/
def nine (maxLimbs : Nat) : Config.Params := { limbDigits := 9, maxLimbs := maxLimbs }

/-- The reset state of `p` with some V registers set, ARG0 and CTRL written. -/
def start (p : Config.Params) (vs : List (VReg × BigUint)) (arg0 ctrl : Word) : State :=
  { vs.foldl (fun s x => s.setV x.1 x.2) (State.resetWith p) with arg0 := arg0, ctrl := ctrlOfWord ctrl }

/-- STATUS.ERRCODE and one V register after the command word `w`. -/
def after (s : State) (w : Nat) (i : VReg) : Option (ErrCode × BigUint) :=
  match step (s.withFetchWord 64 w) with
  | .next t => some (t.errcode, t.V i)
  | .fault _ => none
  | .refused _ => none

/-- STATUS.ERRCODE, RESULT and OUTBUF after the command word `w`. -/
def output (s : State) (w : Nat) : Option (ErrCode × Word × List Byte) :=
  match step (s.withFetchWord 64 w) with
  | .next t => some (t.errcode, t.result, t.outbuf)
  | .fault _ => none
  | .refused _ => none

theorem test_C14_nop : after (start (nine 64) [(0, [7])] 0 0) 0x0 0 = some (.none, [7]) := by decide +kernel
theorem test_C5_vzero : after (start (nine 64) [(5, [7, 3])] 0 0) 0x501 5 = some (.none, []) := by decide +kernel
theorem test_C4_vconst :
    after (start (nine 64) [] 0xFFFFFFFFFFFFFFFF 0) 0x2 0 = some (.none, [709551615, 446744073, 18]) := by
  decide +kernel
theorem test_C13_vconst_capacity :
    after (start { limbDigits := 1, maxLimbs := 3 } [] 1000 0) 0x2 0 = some (.capacity, []) := by decide +kernel
theorem test_C6_vmov : after (start (nine 64) [(1, [5, 9])] 0 0) 0x1203 2 = some (.none, [5, 9]) := by decide +kernel
theorem test_C10_vlimbin :
    after (start (nine 64) [(3, [999999999])] 5 0) 0x304 3 = some (.none, [5, 999999999]) := by decide +kernel
theorem test_C11_vlimbin_range :
    after (start (nine 64) [(3, [5])] 1000000000 0) 0x304 3 = some (.illegalOperand, [5]) := by decide +kernel
theorem test_A2_vadd :
    after (start (nine 64) [(0, [999999999, 999999999]), (1, [1])] 0 0) 0x10210 2 = some (.none, [0, 0, 1]) := by
  decide +kernel
theorem test_A7_vadd_capacity :
    after (start (nine 3) [(0, [999999999, 999999999, 999999999]), (1, [1])] 0 0) 0x10210 2 = some (.capacity, []) := by
  decide +kernel
theorem test_A9_vmul :
    after (start (nine 64) [(0, [999999999, 999999999])] 0 0) 0x311 3 =
      some (.none, [1, 0, 999999998, 999999999]) := by decide +kernel
theorem test_A14_vmul_fits :
    after (start (nine 3) [(0, [0, 1]), (1, [0, 1])] 0 0) 0x10211 2 = some (.none, [0, 0, 1]) := by decide +kernel
theorem test_O2_lowdig :
    output (start (nine 64) [(0, [849228875, 137795166])] 3 0) 0x40 = some (.none, 875, []) := by decide +kernel
theorem test_O6_lowdig_range :
    output (start (nine 64) [(0, [55])] 10 0) 0x40 = some (.illegalOperand, 0, []) := by decide +kernel
theorem test_O9_decstr :
    output (start (nine 64) [(0, [5, 0, 7])] 0 0) 0x41 =
      some (.none, 0, 0x37 :: (List.replicate 17 0x30 ++ [0x35])) := by decide +kernel
theorem test_O7_decstr_zero : output (start (nine 64) [] 0 0) 0x41 = some (.none, 0, [0x30]) := by decide +kernel

/-- M0 = [[2, 3], [5, 7]] and M1 = [[11, 13], [17, 19]] (vector X1). -/
def x1 : State :=
  start (nine 64) [(0, [2]), (1, [3]), (2, [5]), (3, [7]), (4, [11]), (5, [13]), (6, [17]), (7, [19])] 0 0

theorem test_X1_mmul_c00 : after x1 0x10220 8 = some (.none, [73]) := by decide +kernel
theorem test_X1_mmul_c10 : after x1 0x10220 10 = some (.none, [174]) := by decide +kernel
theorem test_X12_mpow :
    after (start (nine 3) [(0, [1]), (1, [1]), (2, [1])] 127 0) 0x121 5 =
      some (.none, [681649693, 220531065, 155576970]) := by decide +kernel
theorem test_X13_mpow_capacity :
    after (start (nine 3) [(0, [1]), (1, [1]), (2, [1])] 128 0) 0x121 4 = some (.capacity, []) := by decide +kernel
theorem test_F11_fib :
    after (start (nine 3) [] 129 0) 0x830 8 = some (.none, [832073954, 904080553, 407305795]) := by decide +kernel
theorem test_F13_fib_truncated :
    after (start (nine 3) [] 130 0x0000000100000002) 0x830 8 = some (.none, [982498215]) := by decide +kernel

/-! ## The host window (section 2.6 of the vectors) -/

/-- The port's answer after the events have been taken one by one. -/
def answer : List Event → State → Option Port
  | [], s => some s.port
  | e :: es, s =>
    match step { s with inbox := [e] } with
    | .next t => answer es t
    | .fault _ => none
    | .refused _ => none

theorem test_H4_H5_status :
    answer [.write 0x20 8 0xFFFFFFFFFFFFFFFF, .write 0x28 8 0x30, .engine, .write 0x18 8 0x2, .read 0x18 8]
      (State.resetWith (nine 64)) = some (.data 0x304) := by decide +kernel
theorem test_H11_cfg0 :
    answer [.write 0x00 8 5, .read 0x00 8] (State.resetWith (nine 64)) = some (.data 0x3B9ACA0000001009) := by
  decide +kernel
theorem test_H7_overrun :
    answer [.write 0x28 8 0x1221, .write 0x28 8 0x1, .read 0x18 8] (State.resetWith (nine 64)) =
      some (.data 0x9) := by decide +kernel
theorem test_R64_byte_order : busByte 0x0807060504030201 0 = 0x01 ∧ busByte 0x0807060504030201 7 = 0x08 := by decide
theorem test_R87_line :
    parseLine ['F', 'I', 'B', ' ', 'v', '0', ',', ' ', '#', '-', '1'] =
      some { command := .fib 0, operand := some 0xFFFFFFFFFFFFFFFF } := by decide +kernel

/-! ## Witnesses: states that meet the obligations' hypotheses -/

/-- A number register at the capacity limit, B^3 - 1, at MAXLIMBS = 3. -/
def top3 : BigUint := [999999999, 999999999, 999999999]

/-- V0 = B^3 - 1, V1 = 1, V3 = B, V4 = B^2, V5 = B^2 - 1, at MAXLIMBS = 3. -/
def demo : State :=
  start (nine 3) [(0, top3), (1, [1]), (3, [0, 1]), (4, [0, 0, 1]), (5, [999999999, 999999999])] 0 0

/-- `demo` with a latched operand and truncation setting, a command running, and events pending. -/
def demoWith (larg0 lcmd : Word) (truncEn : Bool) (k : BitVec 32) (es : List Event) : State :=
  { demo with
    larg0 := larg0, lcmd := lcmd, cmd := lcmd, phase := .busy,
    lctrl := { truncEn := truncEn, truncLimbs := k }, inbox := es }

theorem demoWith_sound (a c : Word) (e : Bool) (k : BitVec 32) (es : List Event) : (demoWith a c e k es).Sound := by
  have hp : demo.params.wf = true := by decide +kernel
  have hc : demo.canonical = true := by decide +kernel
  exact ⟨hp, hc⟩

theorem witness_DecodeOfEncodedCommandIsThatCommand : (Instr.mmul 3 3 3).wf = true ∧ (Instr.mpow 3 0).wf = true := by
  decide

theorem witness_DecodedWordIsTheCommandsEncoding :
    decode 0x33320 = .ok (.mmul 3 3 3) ∧ decode 0xFFF11 = .ok (.vmul 15 15 15) := by decide

theorem witness_IllegalWordsCompleteWithIllegalCmdAndChangeOnlyStatus :
    ∀ es ∈ [[], [Event.engine]], let s := demoWith 0 0x420 false 0 es
      s.engineNext = true ∧ s.phase = .busy ∧ s.rst = false ∧ ∀ i, decode s.lcmd ≠ .ok i := by
  intro es hes
  have hd : decode 0x420 = .error .matrixField := by decide
  have hn : ∀ i, decode 0x420 ≠ .ok i := by intro i; rw [hd]; intro h; cases h
  simp only [List.mem_cons, List.not_mem_nil, or_false] at hes
  rcases hes with rfl | rfl <;> exact ⟨rfl, rfl, rfl, hn⟩

theorem witness_StepCompletesTheDecodedCommand :
    ∀ es ∈ [[], [Event.engine, .read 0x18 8]], let s := demoWith 0 0x10210 false 0 es
      s.engineNext = true ∧ s.phase = .busy ∧ s.rst = false ∧ decode s.lcmd = .ok (.vadd 2 0 1) := by
  decide +kernel

theorem witness_CmdWriteWhenIdleIsAccepted :
    let s := { demo with inbox := [.write 0x28 8 0xFFFFFFFFFFFFFFFF] }
    s.inbox = .write 0x28 8 0xFFFFFFFFFFFFFFFF :: [] ∧ s.rst = false ∧ s.phase = .idle := by decide +kernel

theorem witness_CmdWriteWhenBusyOnlySetsOverrun :
    let s := demoWith 8 0x1221 false 0 [.write 0x28 8 1]
    s.inbox = .write 0x28 8 1 :: [] ∧ s.rst = false ∧ s.phase = .busy := by decide +kernel

theorem witness_RunningCommandKeepsWhatItLatched :
    ∃ s t : State, s.phase = .busy ∧ step s = .next t ∧ t.phase = .busy :=
  ⟨demoWith 8 0x1221 false 0 [.write 0x20 8 20], _, rfl, rfl, rfl⟩

theorem witness_BusyEngineCompletesWithinThePendingEvents :
    ∀ es ∈ [[], [Event.read 0x18 8, .write 0x28 8 1, .releaseRst, .engine]], let s := demoWith 8 0x1221 false 0 es
      s.phase = .busy ∧ s.rst = false ∧ ∀ e ∈ s.inbox, e.accessDefined = true ∧ e.keepsRunning = true := by
  decide +kernel

theorem witness_CommandDependsOnLatchedOperandsAndRegistersOnly :
    let s := demoWith 8 0x1221 false 0 []
    let u := { demoWith 8 0x1221 false 0 [] with result := 5, arg0 := 9, rdSel := 3 }
    s ≠ u ∧ s.params = u.params ∧ s.v = u.v ∧ s.larg0 = u.larg0 ∧ s.lctrl = u.lctrl := by
  refine ⟨?_, rfl, rfl, rfl, rfl⟩
  intro h
  have := congrArg State.result h
  revert this
  decide +kernel

theorem witness_CommandWritesOnlyWhatItsRuleNames :
    ((3 : VReg) ∉ destRegs (.vadd 2 0 1)) ∧ ((12 : VReg) ∉ destRegs (.mmul 2 0 1)) ∧
    (∀ r, Instr.decstr 1 ≠ .lowdig r) ∧ (∀ r, Instr.lowdig 1 ≠ .decstr r) ∧ usesEngine (.vadd 2 0 1) = false :=
  ⟨by decide, by decide, fun _ h => (nomatch h), fun _ h => (nomatch h), rfl⟩

theorem witness_TruncationSettingMattersOnlyToMpowAndFib :
    (∀ d a, Instr.vadd 2 0 1 ≠ .mpow d a) ∧ ∀ d, Instr.vadd 2 0 1 ≠ .fib d :=
  ⟨fun _ _ h => (nomatch h), fun _ h => (nomatch h)⟩

theorem witness_TruncationCountIsNotCheckedWhenTruncationIsOff :
    (demoWith 0 0x1221 false 0 []).lctrl.truncEn = false := rfl

theorem witness_CommandWithErrorChangesOnlyStatus :
    (∃ t, exec (.vadd 2 0 1) (demoWith 0 0x10210 false 0 []) = .next t ∧ t.errcode ≠ .none) ∧
      ∃ t, exec (.fib 2) (demoWith 0 0x230 false 0 []) = .next t ∧ t.errcode ≠ .none := by
  refine ⟨⟨(demoWith 0 0x10210 false 0 []).finish .capacity, ?_, ?_⟩,
    ⟨(demoWith 0 0x230 false 0 []).drawWork.finish .invalidIndex, ?_, ?_⟩⟩
  · have : fit (nine 3) (addBig (10 ^ 9) top3 [1]) = .error .capacity := by decide +kernel
    show State.complete _ (fit (nine 3) (addBig (10 ^ 9) top3 [1]) >>= fun L => pure (State.setV 2 L (demoWith 0 0x10210 false 0 []))) = _
    rw [this]
    rfl
  · decide
  · rfl
  · decide

theorem witness_EachCommandReportsOnlyItsOwnErrorCodes : (Instr.mpow 3 3).wf = true := by decide

theorem witness_ErrorChecksRunInTheStatedOrder :
    (Instr.mpow 4 0).wf = false ∧ (Instr.mpow 3 3).wf = true ∧
    (¬(demoWith 0 0 true 0 []).truncLegal ∧ ¬(demoWith 0 0 true 4 []).truncLegal) ∧
    ((demoWith 0 0 true 1 []).truncLegal ∧ (demoWith 0 0 true 3 []).truncLegal) ∧
    (demoWith 0 0 true 3 []).larg0.toInt < 1 ∧
    (demoWith 1000000000 0 false 0 []).radix ≤ (demoWith 1000000000 0 false 0 []).larg0.toNat := by
  refine ⟨by decide, by decide, ⟨?_, ?_⟩, ⟨?_, ?_⟩, ?_, ?_⟩ <;> (try unfold State.truncLegal) <;> decide +kernel

theorem witness_BadTruncationSettingEndsWithBadConfig :
    (let s := demoWith 5 0x1021 true 0 []
     s.lctrl.truncEn = true ∧ s.lctrl.truncLimbs.toNat = 0) ∧
    (let s := demoWith 5 0x1021 true 4 []
     s.lctrl.truncEn = true ∧ s.params.maxLimbs < s.lctrl.truncLimbs.toNat) ∧
    (Instr.mpow 0 1).wf = true := by decide +kernel

theorem witness_MatrixFieldAboveThreeEndsWithIllegalCmd :
    3 < (4 : MReg).toNat ∧ 3 < (15 : MReg).toNat := by decide

/-- LIMB_DIGITS = 1 and MAXLIMBS = 3, so that registers hold numbers below 1000, with an operand. -/
def small (a : Word) : State := { State.resetWith { limbDigits := 1, maxLimbs := 3 } with larg0 := a }

theorem small_sound (a : Word) : (small a).Sound where
  params_wf := (by decide +kernel : (small 0).params.wf = true)
  canonical := (by decide +kernel : (small 0).canonical = true)

theorem witness_VconstConstructsItsValue :
    ((small 999).Sound ∧ (small 999).fitsReg (small 999).larg0.toNat) ∧
      ((small 1000).Sound ∧ ¬(small 1000).fitsReg (small 1000).larg0.toNat) := by
  refine ⟨⟨small_sound _, ?_⟩, ⟨small_sound _, ?_⟩⟩ <;> unfold State.fitsReg <;> decide +kernel

theorem witness_VconstAlwaysFitsAtNineDigits :
    (demoWith 0xFFFFFFFFFFFFFFFF 0x2 false 0 []).Sound ∧
      (demoWith 0xFFFFFFFFFFFFFFFF 0x2 false 0 []).params.limbDigits = 9 := ⟨demoWith_sound _ _ _ _ _, by decide⟩

theorem witness_VlimbinShiftsALimbIn :
    let bad := demoWith 1000000000 0x504 false 0 []
    let last := demoWith 999999999 0x504 false 0 []
    let zero := demoWith 0 0x504 false 0 []
    bad.Sound ∧ last.Sound ∧ zero.Sound ∧ bad.radix ≤ bad.larg0.toNat ∧
    (last.larg0.toNat < last.radix ∧ last.fitsReg (last.valV 5 * last.radix + last.larg0.toNat)) ∧
    (zero.larg0.toNat < zero.radix ∧ ¬zero.fitsReg (zero.valV 4 * zero.radix + zero.larg0.toNat)) := by
  refine ⟨demoWith_sound _ _ _ _ _, demoWith_sound _ _ _ _ _, demoWith_sound _ _ _ _ _, ?_, ?_, ?_⟩ <;>
    (try unfold State.fitsReg) <;> decide +kernel

theorem witness_LoadSequenceLeavesTheSpelledValue :
    let ls : List Word := [999999999, 0, 999999999]
    let s := demoWith 0 0 false 0 []
    s.Sound ∧ ls.length ≤ s.params.maxLimbs ∧ ∀ l ∈ ls, l.toNat < s.radix := by
  refine ⟨demoWith_sound _ _ _ _ _, by decide +kernel, ?_⟩
  intro l hl
  simp only [List.mem_cons, List.not_mem_nil, or_false] at hl
  rcases hl with rfl | rfl | rfl <;> decide +kernel

theorem witness_VaddStoresTheExactSum :
    let s := demoWith 0 0x10210 false 0 []
    s.Sound ∧ s.fitsReg (s.valV 0 + s.valV 2) ∧ s.V 2 = [] ∧ ¬s.fitsReg (s.valV 0 + s.valV 1) := by
  refine ⟨demoWith_sound _ _ _ _ _, ?_, ?_, ?_⟩ <;> (try unfold State.fitsReg) <;> decide +kernel

theorem witness_VmulStoresTheExactProduct :
    let s := demoWith 0 0x10211 false 0 []
    s.Sound ∧ s.fitsReg (s.valV 0 * s.valV 1) ∧ ¬s.fitsReg (s.valV 3 * s.valV 4) := by
  refine ⟨demoWith_sound _ _ _ _ _, ?_, ?_⟩ <;> (try unfold State.fitsReg) <;> decide +kernel

theorem witness_AddAndMulObeyTheAlgebraicLaws :
    (nine 3).wf = true ∧ canonicalBig (nine 3) top3 = true ∧ canonicalBig (nine 3) [0, 1] = true ∧
      canonicalBig (nine 3) [] = true := ⟨by decide, by decide, by decide, by decide⟩

theorem witness_SumAndProductLengthBounds :
    (nine 3).wf = true ∧ canonicalBig (nine 3) top3 = true ∧ canonicalBig (nine 3) [1] = true ∧
      1 ≤ top3.length ∧ 1 ≤ ([1] : BigUint).length := by decide

theorem witness_AdditionLoopGivesTheExactSum :
    (nine 3).wf = true ∧ canonicalBig (nine 3) top3 = true ∧ canonicalBig (nine 3) [1] = true := by decide

theorem witness_ConvolutionGivesTheExactProduct :
    (nine 3).wf = true ∧ canonicalBig (nine 3) top3 = true ∧ canonicalBig (nine 3) [0, 0, 1] = true := by decide

theorem witness_LowdigReportsTheLowDigits :
    (demoWith 9 0x40 false 0 []).Sound ∧
      (demoWith 9 0x40 false 0 []).larg0.toNat ≤ (demoWith 9 0x40 false 0 []).params.limbDigits ∧
      (demoWith 10 0x40 false 0 []).params.limbDigits < (demoWith 10 0x40 false 0 []).larg0.toNat := by
  refine ⟨demoWith_sound _ _ _ _ _, ?_, ?_⟩ <;> decide +kernel

theorem witness_DecstrSpellsTheValueInDecimal : ∃ s : State, s.Sound ∧ s.V 0 = top3 :=
  ⟨demoWith 0 0x41 false 0 [], demoWith_sound _ _ _ _ _, by decide +kernel⟩

theorem witness_ConstantThenDecimalStringRoundTrips :
    ∃ s : State, s.Sound ∧ s.fitsReg (0xFFFFFFFFFFFFFFFF : Word).toNat := by
  refine ⟨demoWith 0 0x2 false 0 [], demoWith_sound _ _ _ _ _, ?_⟩
  unfold State.fitsReg
  decide +kernel

/-- M1 = [[x, 0], [0, 1]] at LIMB_DIGITS = 1 and MAXLIMBS = 3, so that registers hold numbers below 1000; a command
running with operand `larg0`. -/
def diag (x : BigUint) (larg0 : Word) (truncEn : Bool) (k : BitVec 32) : State :=
  { start { limbDigits := 1, maxLimbs := 3 } [(4, x), (7, [1])] 0 0 with
    larg0 := larg0, lctrl := { truncEn := truncEn, truncLimbs := k } }

theorem diag_sound (x : BigUint) (a : Word) (e : Bool) (k : BitVec 32) (hx : (diag x 0 false 0).canonical = true) :
    (diag x a e k).Sound := ⟨(by decide +kernel : (diag [] 0 false 0).params.wf = true), hx⟩

theorem witness_MmulStoresTheExactMatrixProduct :
    (Instr.mmul 2 1 1).wf = true ∧
    ((diag [1, 3] 0 false 0).Sound ∧
      (matMul ((diag [1, 3] 0 false 0).valM 1) ((diag [1, 3] 0 false 0).valM 1)).fitsIn (diag [] 0 false 0).params) ∧
    ((diag [2, 3] 0 false 0).Sound ∧
      ¬(matMul ((diag [2, 3] 0 false 0).valM 1) ((diag [2, 3] 0 false 0).valM 1)).fitsIn (diag [] 0 false 0).params) := by
  refine ⟨by decide, ⟨diag_sound _ _ _ _ (by decide +kernel), ?_⟩, ⟨diag_sound _ _ _ _ (by decide +kernel), ?_⟩⟩ <;>
    unfold Mat.fitsIn <;> decide +kernel

theorem witness_MpowWithoutTruncationStoresThePowerOrCapacity :
    let fits (s : State) : Prop := ∀ i, 1 ≤ i → i ≤ bitlen s.larg0.toNat →
      (matPow (s.valM 1) (2 ^ i)).fitsIn s.params ∧ (matPow (s.valM 1) (s.larg0.toNat % 2 ^ i)).fitsIn s.params
    (Instr.mpow 2 1).wf = true ∧
    ((diag [1, 3] 1 false 0).Sound ∧ (diag [1, 3] 1 false 0).lctrl.truncEn = false ∧ fits (diag [1, 3] 1 false 0)) ∧
    ((diag [2, 3] 1 false 0).Sound ∧ (diag [2, 3] 1 false 0).lctrl.truncEn = false ∧ ¬fits (diag [2, 3] 1 false 0)) := by
  refine ⟨by decide, ⟨diag_sound _ _ _ _ (by decide +kernel), rfl, ?_⟩,
    ⟨diag_sound _ _ _ _ (by decide +kernel), rfl, ?_⟩⟩
  · intro i h1 h2
    have hb : bitlen (diag [1, 3] 1 false 0).larg0.toNat = 1 := by decide +kernel
    obtain rfl : i = 1 := by omega
    constructor <;> unfold Mat.fitsIn <;> decide +kernel
  · intro h
    have h1 := (h 1 (by decide) (by decide +kernel)).1
    unfold Mat.fitsIn at h1
    revert h1
    decide +kernel

theorem diag_truncLegal (x : BigUint) (a : Word) {k : BitVec 32} (hk : 1 ≤ k.toNat ∧ k.toNat ≤ 3) :
    (diag x a true k).truncLegal := fun _ => hk

theorem witness_MpowWithTruncationStoresThePowerModulo :
    (Instr.mpow 2 1).wf = true ∧ ∀ e : Word,
      ((diag [2, 3] e true 1).Sound ∧ (diag [2, 3] e true 1).lctrl.truncEn = true ∧ (diag [2, 3] e true 1).truncLegal) ∧
      ((diag [2, 3] e true 3).Sound ∧ (diag [2, 3] e true 3).lctrl.truncEn = true ∧ (diag [2, 3] e true 3).truncLegal) :=
  ⟨by decide, fun _ => ⟨⟨diag_sound _ _ _ _ (by decide +kernel), rfl, diag_truncLegal _ _ (by decide)⟩,
    ⟨diag_sound _ _ _ _ (by decide +kernel), rfl, diag_truncLegal _ _ (by decide)⟩⟩⟩

/-- R164: "For e = 8 it is 1 + 4 = 5 products; for e = 10 it is 2 + 4 = 6." -/
theorem test_R164_products :
    powProducts (nine 3) { truncEn := false, truncLimbs := 0 } matQ 8 = { folds := 1, squarings := 4 } ∧
    powProducts (nine 3) { truncEn := false, truncLimbs := 0 } matQ 10 = { folds := 2, squarings := 4 } := by
  decide +kernel

theorem witness_PowLoopProductCount :
    ∃ P, powMat (nine 3) { truncEn := false, truncLimbs := 0 } matQ 10 = .ok P :=
  ⟨{ c00 := [89], c01 := [55], c10 := [55], c11 := [34] }, by decide +kernel⟩

theorem witness_PowLoopStopsWithinBitlen : bitlen (8 : Word).toNat ≤ 4 := by decide

theorem witness_MatricesAreViewsOfTheRegisters :
    mfieldOk 3 = true ∧ mfieldOk 0 = true ∧ (0 : MReg) ≠ 3 := by decide

theorem witness_FibWithoutTruncationStoresTheFibonacciNumberOrCapacity :
    (∀ n ∈ [1, 2, 9, 10], (diag [] (BitVec.ofNat 64 n) false 0).Sound ∧
      (diag [] (BitVec.ofNat 64 n) false 0).lctrl.truncEn = false ∧
      (diag [] (BitVec.ofNat 64 n) false 0).larg0.toInt = n ∧ 1 ≤ n) ∧
    (9 ≤ 2 ∨ (diag [] 9 false 0).fitsReg (Nat.fib (2 ^ bitlen (9 - 2) + 1))) ∧
    ¬(10 ≤ 2 ∨ (diag [] 10 false 0).fitsReg (Nat.fib (2 ^ bitlen (10 - 2) + 1))) := by
  refine ⟨?_, .inr ?_, ?_⟩
  · intro n hn
    refine ⟨diag_sound _ _ _ _ (by decide +kernel), rfl, ?_, ?_⟩
    · simp only [List.mem_cons, List.not_mem_nil, or_false] at hn
      rcases hn with rfl | rfl | rfl | rfl <;> decide +kernel
    · simp only [List.mem_cons, List.not_mem_nil, or_false] at hn
      omega
  · unfold State.fitsReg
    decide +kernel
  · rintro (h | h)
    · omega
    · unfold State.fitsReg at h
      revert h
      decide +kernel

theorem witness_FibWithTruncationStoresTheFibonacciNumberModulo :
    (let s := diag [] 0x7FFFFFFFFFFFFFFF true 1
     s.Sound ∧ s.lctrl.truncEn = true ∧ s.truncLegal ∧ s.larg0.toInt = (2 ^ 63 - 1 : Nat)) ∧
    (let s := diag [] 1 true 3
     s.Sound ∧ s.lctrl.truncEn = true ∧ s.truncLegal ∧ s.larg0.toInt = (1 : Nat)) :=
  ⟨⟨diag_sound _ _ _ _ (by decide +kernel), rfl, diag_truncLegal _ _ (by decide), by decide +kernel⟩,
    ⟨diag_sound _ _ _ _ (by decide +kernel), rfl, diag_truncLegal _ _ (by decide), by decide +kernel⟩⟩

theorem witness_FibBelowOneEndsWithInvalidIndex :
    ((diag [] 0 false 0).truncLegal ∧ (diag [] 0 false 0).larg0.toInt < 1) ∧
    ((diag [] 0xFFFFFFFFFFFFFFFF true 1).truncLegal ∧ (diag [] 0xFFFFFFFFFFFFFFFF true 1).larg0.toInt < 1) ∧
    ((diag [] 0x8000000000000000 false 0).truncLegal ∧ (diag [] 0x8000000000000000 false 0).larg0.toInt < 1) :=
  ⟨⟨(fun h => nomatch h), by decide +kernel⟩, ⟨diag_truncLegal _ _ (by decide), by decide +kernel⟩,
    ⟨(fun h => nomatch h), by decide +kernel⟩⟩

theorem witness_OnlyAlignedEightByteAccessesAreDefined :
    ¬(8 = 8 ∧ 0xFC % 8 = 0 ∧ 0xFC < 0x100) ∧ ¬(4 = 8 ∧ 0x18 % 8 = 0 ∧ 0x18 < 0x100) ∧
    ¬(8 = 8 ∧ 0x100 % 8 = 0 ∧ 0x100 < 0x100) ∧ (8 = 8 ∧ 0xF8 % 8 = 0 ∧ 0xF8 < 0x100) ∧
    (let s := { demo with inbox := [.read 0xFC 8] }
     s.rst = false ∧ s.inbox = .read 0xFC 8 :: []) ∧
    (let s := { demo with inbox := [.write 0xF8 8 1] }
     s.rst = false ∧ s.inbox = .write 0xF8 8 1 :: []) := by
  refine ⟨by decide, by decide, by decide, by decide, by decide +kernel, by decide +kernel⟩

theorem witness_HostReadsHaveNoSideEffect :
    (∃ s t : State, s.inbox = [.read 0x30 8] ∧ step s = .next t ∧ s.phase = .idle) ∧
    (∃ s t : State, s.inbox = [.read 0x30 8] ∧ step s = .next t ∧ s.rst = true) :=
  ⟨⟨{ demo with inbox := [.read 0x30 8] }, _, rfl, rfl, rfl⟩,
   ⟨{ demo with inbox := [.read 0x30 8], rst := true }, _, rfl, rfl, rfl⟩⟩

theorem witness_ReadsWhileBusyAreFreeOnlyForResults :
    ∀ off ∈ [0x30, 0x68, 0x00, 0x60], let s := demoWith 8 0x1221 false 0 [.read off 8]
      s.rst = false ∧ s.inbox = .read off 8 :: [] ∧ s.phase = .busy := by decide +kernel

theorem witness_ExactRegistersReadTheirFields :
    ∀ off ∈ [0x00, 0x08, 0x10, 0x18, 0x20, 0x28, 0x38, 0x40, 0x60], let s := demoWith 8 0x1221 false 0 [.read off 8]
      s.params.wf = true ∧ s.rst = false ∧ s.inbox = .read off 8 :: [] := by decide +kernel

theorem demo_inv (es : List Event) : ({ demo with inbox := es } : State).Inv where
  params_wf := (by decide +kernel : demo.params.wf = true)
  canonical := (by decide +kernel : demo.canonical = true)
  outbuf_fits := Nat.zero_le _
  outbuf_digits := by intro c hc; exact absurd hc (List.not_mem_nil)
  busy_status := by intro h; cases h
  work_sized := (by decide +kernel : demo.work.acc.sized demo.params = true ∧
    demo.work.base.sized demo.params = true ∧ demo.work.scratch.length = 2 * demo.params.maxLimbs + 2)
  held_in_reset := by intro h; cases h

theorem witness_IdleResultRegistersReadTheirValues :
    ∀ off ∈ [0x30, 0x48, 0x50, 0x58, 0x68, 0x70, 0xF8], let s : State := { demo with inbox := [.read off 8] }
      s.Inv ∧ s.rst = false ∧ s.inbox = .read off 8 :: [] ∧ s.phase = .idle :=
  fun _ _ => ⟨demo_inv _, rfl, rfl, rfl⟩

theorem witness_WritesToReadOnlyAndReservedOffsetsAreIgnored :
    ∀ off ∈ [0x00, 0x08, 0x30, 0x48, 0x50, 0x58, 0x68, 0x70, 0xF8],
      let s := { demo with inbox := [.write off 8 5] }
      s.rst = false ∧ s.inbox = .write off 8 5 :: [] ∧
      (off ∈ [0x00, 0x08, 0x30, 0x48, 0x50, 0x58, 0x68] ∨ (off % 8 = 0 ∧ 0x70 ≤ off ∧ off < 0x100)) := by
  decide +kernel

theorem witness_PlainRegisterWritesStoreTheirFields :
    ∀ off ∈ [0x10, 0x20, 0x38, 0x40, 0x60], let s := { demo with inbox := [.write off 8 0xFFFFFFFFFFFFFFFF] }
      s.rst = false ∧ s.inbox = .write off 8 0xFFFFFFFFFFFFFFFF :: [] := by decide +kernel

theorem witness_StatusWriteClearsOnlyDoneAndOverrun :
    let s := { demo with inbox := [.write 0x18 8 0x2], done := true, overrun := true }
    s.rst = false ∧ s.inbox = .write 0x18 8 0x2 :: [] := by decide +kernel

theorem witness_IrqIsDoneAndIrqEnAndChangesOnlyAsStated :
    (∃ s t : State, step s = .next t ∧ s.irq = false ∧ t.irq = true) ∧
    (∃ s t : State, step s = .next t ∧ s.irq = true ∧ t.irq = false) :=
  ⟨⟨{ demoWith 0 0 false 0 [] with ctrl := { irqEn := true, truncEn := false, truncLimbs := 0 } }, _, rfl, rfl, rfl⟩,
   ⟨{ demo with
        done := true, ctrl := { irqEn := true, truncEn := false, truncLimbs := 0 }, inbox := [.write 0x18 8 2] },
      _, rfl, rfl, rfl⟩⟩

theorem witness_OnlyCompletionOrResetChangesResults :
    ∃ s t : State, step s = .next t ∧ t.v ≠ s.v :=
  ⟨demoWith 0 0x1 false 0 [], _, rfl, by decide +kernel⟩

theorem witness_EngineRegistersChangeOnlyInMpowFibOrReset :
    (∃ s t : State, s.inbox = [.assertRst] ∧ step s = .next t ∧ t.work ≠ s.work) ∧
      ∃ s t : State, s.inbox = [] ∧ s.phase = .busy ∧ step s = .next t ∧ t.work ≠ s.work := by
  constructor
  · refine ⟨{ demo with inbox := [.assertRst], work := { demo.work with scratch := [] } }, _, rfl, rfl, ?_⟩
    intro h
    have := congrArg (fun w : Work => w.scratch.length) h
    revert this
    simp [State.assertReset, freeWork]
  · refine ⟨{ demoWith 0 0x230 false 0 [] with work := { demo.work with scratch := [] } }, _, rfl, rfl, rfl, ?_⟩
    intro h
    have := congrArg (fun w : Work => w.scratch.length) h
    revert this
    simp [State.drawWork, State.finish, freeWork]

theorem witness_AssertedResetHoldsEverything :
    ∀ e ∈ [Event.assertRst, .read 0x31 4, .write 0x28 8 1, .engine, .releaseRst],
      (let s := { demo.assertReset with inbox := [e] }
       s.inbox = e :: [] ∧ s.rst = true) ∧ (demo.assertReset.inbox = [] ∧ demo.assertReset.rst = true) :=
  fun _ _ => ⟨⟨rfl, rfl⟩, rfl, rfl⟩

theorem witness_ResetStateMeetsTheInvariant :
    ({ limbDigits := 1, maxLimbs := 3 } : Config.Params).wf = true ∧
      ({ limbDigits := 9, maxLimbs := 2 ^ 32 - 1 } : Config.Params).wf = true := by decide

theorem witness_EveryStepKeepsTheInvariant : ∃ s t : State, s.Inv ∧ step s = .next t ∧ t.phase = .busy :=
  ⟨{ demo with inbox := [.write 0x28 8 0x1221] }, _, demo_inv _, rfl, rfl⟩

theorem witness_NoStepChangesTheParameters : ∃ s t : State, step s = .next t ∧ t ≠ s :=
  ⟨{ demo with inbox := [.releaseRst] }, _, rfl, by intro h; have := congrArg State.inbox h; revert this; decide⟩

end Sys2Proof.Tests
end

section
/-!
PROOF. Decode and encode are inverse to each other (R81, R84, R86): the only word that decodes to a command is that
command's own.
-/

namespace Sys2Proof

/-! ## A word and its fields, as numbers (R80, R81) -/

theorem fieldOp_toNat (w : Word) : (fieldOp w).toNat = w.toNat % 2 ^ 8 := by
  rw [fieldOp, BitVec.extractLsb'_toNat, Nat.shiftRight_zero]

theorem fieldRd_toNat (w : Word) : (fieldRd w).toNat = w.toNat / 2 ^ 8 % 2 ^ 4 := by
  rw [fieldRd, BitVec.extractLsb'_toNat, Nat.shiftRight_eq_div_pow]

theorem fieldRs1_toNat (w : Word) : (fieldRs1 w).toNat = w.toNat / 2 ^ 12 % 2 ^ 4 := by
  rw [fieldRs1, BitVec.extractLsb'_toNat, Nat.shiftRight_eq_div_pow]

theorem fieldRs2_toNat (w : Word) : (fieldRs2 w).toNat = w.toNat / 2 ^ 16 % 2 ^ 4 := by
  rw [fieldRs2, BitVec.extractLsb'_toNat, Nat.shiftRight_eq_div_pow]

theorem fieldReserved_toNat (w : Word) : (fieldReserved w).toNat = w.toNat / 2 ^ 20 % 2 ^ 12 := by
  rw [fieldReserved, BitVec.extractLsb'_toNat, Nat.shiftRight_eq_div_pow]

theorem fieldHigh_toNat (w : Word) : (fieldHigh w).toNat = w.toNat / 2 ^ 32 % 2 ^ 32 := by
  rw [fieldHigh, BitVec.extractLsb'_toNat, Nat.shiftRight_eq_div_pow]

/-- The fields of a command word do not overlap, so it is their sum, each at its place (R87). -/
theorem commandWord_toNat (op : BitVec 8) (rd rs1 rs2 : BitVec 4) :
    (commandWord op rd rs1 rs2).toNat =
      op.toNat + rd.toNat * 2 ^ 8 + rs1.toNat * 2 ^ 12 + rs2.toNat * 2 ^ 16 := by
  have hop := op.isLt
  have hrd := rd.isLt
  have hrs1 := rs1.isLt
  have hrs2 := rs2.isLt
  have or_eq_add {a i : Nat} (b : Nat) (h : a < 2 ^ i) : a ||| b * 2 ^ i = a + b * 2 ^ i := by
    rw [← Nat.shiftLeft_eq, Nat.or_comm, ← Nat.shiftLeft_add_eq_or_of_lt h, Nat.add_comm]
  have place {n i : Nat} (x : BitVec n) (h : x.toNat * 2 ^ i < 2 ^ 64) (hn : n ≤ 64) :
      (x.setWidth 64 <<< i).toNat = x.toNat * 2 ^ i := by
    rw [BitVec.toNat_shiftLeft, BitVec.toNat_setWidth_of_le hn, Nat.shiftLeft_eq, Nat.mod_eq_of_lt h]
  rw [commandWord, BitVec.toNat_or, BitVec.toNat_or, BitVec.toNat_or, BitVec.toNat_setWidth_of_le (by decide),
    place rd (by omega) (by decide), place rs1 (by omega) (by decide), place rs2 (by omega) (by decide),
    or_eq_add rd.toNat (by omega), or_eq_add rs1.toNat (by omega), or_eq_add rs2.toNat (by omega)]

/-- A word with no bit above bit 19 is built from its own four fields (R81). -/
theorem commandWord_fields {w : Word} (hhigh : fieldHigh w = 0) (hres : fieldReserved w = 0) :
    commandWord (fieldOp w) (fieldRd w) (fieldRs1 w) (fieldRs2 w) = w := by
  have h1 : w.toNat / 2 ^ 32 % 2 ^ 32 = 0 := by rw [← fieldHigh_toNat, hhigh]; rfl
  have h2 : w.toNat / 2 ^ 20 % 2 ^ 12 = 0 := by rw [← fieldReserved_toNat, hres]; rfl
  have hw := w.isLt
  apply BitVec.eq_of_toNat_eq
  rw [commandWord_toNat, fieldOp_toNat, fieldRd_toNat, fieldRs1_toNat, fieldRs2_toNat]
  omega

theorem fieldHigh_commandWord (op : BitVec 8) (rd rs1 rs2 : BitVec 4) : fieldHigh (commandWord op rd rs1 rs2) = 0 := by
  have := commandWord_lt op rd rs1 rs2
  apply BitVec.eq_of_toNat_eq
  rw [fieldHigh_toNat]
  change _ = 0
  omega

theorem fieldReserved_commandWord (op : BitVec 8) (rd rs1 rs2 : BitVec 4) :
    fieldReserved (commandWord op rd rs1 rs2) = 0 := by
  have := commandWord_lt op rd rs1 rs2
  apply BitVec.eq_of_toNat_eq
  rw [fieldReserved_toNat]
  change _ = 0
  omega

/-! ## The opcode map (R84) -/

theorem opcodeOf_number (o : Opcode) : opcodeOf o.number = some o := by
  cases o with
  | _ => rfl

theorem number_of_opcodeOf {n : BitVec 8} {o : Opcode} (h : opcodeOf n = some o) : o.number = n := by
  apply BitVec.eq_of_toNat_eq
  unfold opcodeOf at h
  split at h
  case h_13 => cases h
  all_goals
    rename_i hn
    cases h
    exact hn.symm

/-- A matrix field is legal exactly when it names one of M0 to M3 (R82). -/
theorem fieldProblem_m_iff (f : BitVec 4) : fieldProblem .m f = none ↔ mfieldOk f = true := by
  simp only [fieldProblem, mfieldOk, decide_eq_true_eq]
  split
  · simp; omega
  · simp; omega

/-- An unused field is legal exactly when it is 0 (R82). -/
theorem fieldProblem_unused_iff (f : BitVec 4) : fieldProblem .unused f = none ↔ f = 0 := by
  simp [fieldProblem]

/-- R86 finds no field problem exactly when each field is legal for its kind. -/
theorem firstFieldProblem_eq_none_iff (o : Opcode) (rd rs1 rs2 : BitVec 4) :
    firstFieldProblem o rd rs1 rs2 = none ↔
      fieldProblem o.kindRd rd = none ∧ fieldProblem o.kindRs1 rs1 = none ∧ fieldProblem o.kindRs2 rs2 = none := by
  simp [firstFieldProblem]

/-! ## Decode and encode (R84, R86) -/

/-- What `decode` accepts: no high or reserved bit, an opcode of the table, legal fields (R86). -/
theorem decode_eq_ok_iff_fields (w : Word) (i : Instr) :
    decode w = .ok i ↔ fieldHigh w = 0 ∧ fieldReserved w = 0 ∧ ∃ o, opcodeOf (fieldOp w) = some o ∧
      firstFieldProblem o (fieldRd w) (fieldRs1 w) (fieldRs2 w) = none ∧
      o.command (fieldRd w) (fieldRs1 w) (fieldRs2 w) = i := by
  by_cases hhigh : fieldHigh w = 0
  · by_cases hres : fieldReserved w = 0
    · cases hop : opcodeOf (fieldOp w) with
      | none => simp [decode, hhigh, hres, hop]
      | some o =>
        cases hf : firstFieldProblem o (fieldRd w) (fieldRs1 w) (fieldRs2 w) with
        | none => simp [decode, hhigh, hres, hop, hf]
        | some e => simp [decode, hhigh, hres, hop, hf]
    · rw [decode, if_neg (not_not_intro hhigh), if_pos hres]
      exact ⟨nofun, fun h => absurd h.2.1 hres⟩
  · rw [decode, if_pos hhigh]
    exact ⟨nofun, fun h => absurd h.1 hhigh⟩

/-- With legal fields the command the table gives is well formed, and those fields are its word's (R82, R87). -/
theorem wf_and_encode_command {o : Opcode} {rd rs1 rs2 : BitVec 4} (h : firstFieldProblem o rd rs1 rs2 = none) :
    (o.command rd rs1 rs2).wf = true ∧ encode (o.command rd rs1 rs2) = commandWord o.number rd rs1 rs2 := by
  obtain ⟨hrd, hrs1, hrs2⟩ := (firstFieldProblem_eq_none_iff o rd rs1 rs2).1 h
  cases o with
  | nop =>
    cases (fieldProblem_unused_iff rd).1 hrd
    cases (fieldProblem_unused_iff rs1).1 hrs1
    cases (fieldProblem_unused_iff rs2).1 hrs2
    exact ⟨rfl, rfl⟩
  | vzero | vconst | vlimbin | fib =>
    cases (fieldProblem_unused_iff rs1).1 hrs1
    cases (fieldProblem_unused_iff rs2).1 hrs2
    exact ⟨rfl, rfl⟩
  | vmov =>
    cases (fieldProblem_unused_iff rs2).1 hrs2
    exact ⟨rfl, rfl⟩
  | vadd | vmul => exact ⟨rfl, rfl⟩
  | mmul =>
    refine ⟨?_, rfl⟩
    simp only [Opcode.command, Instr.wf, Bool.and_eq_true]
    exact ⟨⟨(fieldProblem_m_iff rd).1 hrd, (fieldProblem_m_iff rs1).1 hrs1⟩, (fieldProblem_m_iff rs2).1 hrs2⟩
  | mpow =>
    cases (fieldProblem_unused_iff rs2).1 hrs2
    refine ⟨?_, rfl⟩
    simp only [Opcode.command, Instr.wf, Bool.and_eq_true]
    exact ⟨(fieldProblem_m_iff rd).1 hrd, (fieldProblem_m_iff rs1).1 hrs1⟩
  | lowdig | decstr =>
    cases (fieldProblem_unused_iff rd).1 hrd
    cases (fieldProblem_unused_iff rs2).1 hrs2
    exact ⟨rfl, rfl⟩

/-- Every well-formed command comes from its opcode and legal fields, which are those of its word (R82, R87). -/
theorem exists_fields_of_wf {i : Instr} (h : i.wf = true) :
    ∃ rd rs1 rs2 : BitVec 4, firstFieldProblem i.opcode rd rs1 rs2 = none ∧ i.opcode.command rd rs1 rs2 = i ∧
      encode i = commandWord i.opcode.number rd rs1 rs2 := by
  cases i with
  | nop => exact ⟨0, 0, 0, rfl, rfl, rfl⟩
  | vzero rd | vconst rd | vlimbin rd | fib rd => exact ⟨rd, 0, 0, rfl, rfl, rfl⟩
  | vmov rd rs1 => exact ⟨rd, rs1, 0, rfl, rfl, rfl⟩
  | vadd rd rs1 rs2 | vmul rd rs1 rs2 => exact ⟨rd, rs1, rs2, rfl, rfl, rfl⟩
  | mmul rd rs1 rs2 =>
    simp only [Instr.wf, Bool.and_eq_true] at h
    obtain ⟨⟨hrd, hrs1⟩, hrs2⟩ := h
    have hlegal : firstFieldProblem .mmul rd rs1 rs2 = none :=
      (firstFieldProblem_eq_none_iff _ _ _ _).2
        ⟨(fieldProblem_m_iff rd).2 hrd, (fieldProblem_m_iff rs1).2 hrs1, (fieldProblem_m_iff rs2).2 hrs2⟩
    exact ⟨rd, rs1, rs2, hlegal, rfl, rfl⟩
  | mpow rd rs1 =>
    simp only [Instr.wf, Bool.and_eq_true] at h
    obtain ⟨hrd, hrs1⟩ := h
    have hlegal : firstFieldProblem .mpow rd rs1 0 = none :=
      (firstFieldProblem_eq_none_iff _ _ _ _).2
        ⟨(fieldProblem_m_iff rd).2 hrd, (fieldProblem_m_iff rs1).2 hrs1, rfl⟩
    exact ⟨rd, rs1, 0, hlegal, rfl, rfl⟩
  | lowdig rs1 | decstr rs1 => exact ⟨0, rs1, 0, rfl, rfl, rfl⟩

/-- A word built from an opcode of the table and legal fields decodes to that command (R86). -/
theorem decode_commandWord {o : Opcode} {rd rs1 rs2 : BitVec 4} (h : firstFieldProblem o rd rs1 rs2 = none) :
    decode (commandWord o.number rd rs1 rs2) = .ok (o.command rd rs1 rs2) := by
  rw [decode_eq_ok_iff_fields, fieldOp_commandWord, fieldRd_commandWord, fieldRs1_commandWord, fieldRs2_commandWord]
  exact ⟨fieldHigh_commandWord .., fieldReserved_commandWord .., o, opcodeOf_number o, h, rfl⟩

/-- The words that decode to `i`: its own, if `i` is well formed, and no other (R84, R86, R87). -/
theorem decode_eq_ok_iff (w : Word) (i : Instr) : decode w = .ok i ↔ i.wf = true ∧ w = encode i := by
  constructor
  · intro h
    obtain ⟨hhigh, hres, o, hop, hf, rfl⟩ := (decode_eq_ok_iff_fields w i).1 h
    obtain ⟨hwf, henc⟩ := wf_and_encode_command hf
    rw [henc, number_of_opcodeOf hop, commandWord_fields hhigh hres]
    exact ⟨hwf, rfl⟩
  · rintro ⟨hwf, rfl⟩
    obtain ⟨rd, rs1, rs2, hf, hcmd, henc⟩ := exists_fields_of_wf hwf
    rw [henc, decode_commandWord hf, hcmd]

end Sys2Proof
end

section
/-!
PROOF. What the completion of a command can write, said once for all twelve commands (R23, R92, R201): STATUS alone, a
canonical limb sequence in one V register, canonical cells in one matrix, RESULT, or a decimal string in OUTBUF; on top
of the state the command found, or of that state with the working registers drawn anew (MPOW and FIB, R39).
-/

namespace Sys2Proof.Machine

open Sys2Proof.Config

/-! ## Stored values are canonical (R21) -/

/-- Every cell of a matrix holds a canonical limb sequence that fits a register (R21, R22). -/
def Mat.Canonical (p : Params) (X : Mat BigUint) : Prop :=
  canonicalBig p X.c00 = true ∧ canonicalBig p X.c01 = true ∧ canonicalBig p X.c10 = true ∧
    canonicalBig p X.c11 = true

/-- A canonical form is a register value as soon as it is short enough (R10, R21). -/
theorem canonicalBig_canon_of_length_le {p : Params} (hp : p.wf = true) {x : Nat}
    (h : (canon p.radix x).length ≤ p.maxLimbs) : canonicalBig p (canon p.radix x) = true := by
  have h10 := radix_pos_of_wf hp
  have hB : p.radix ≤ 2 ^ 32 := (radix_le_of_wf hp).trans (by decide)
  exact canonicalBig_canon hp ((canon_length_le_iff (by omega) hB x _).1 h)

/-- What passes the capacity check of a canonical form is a register value (R6, R21). -/
theorem canonicalBig_of_fit_canon {p : Params} (hp : p.wf = true) {x : Nat} {L : BigUint}
    (h : fit p (canon p.radix x) = .ok L) : canonicalBig p L = true := by
  rcases fit_cases p (canon p.radix x) with ⟨hlen, hok⟩ | ⟨-, herr⟩
  · cases hok.symm.trans h
    exact canonicalBig_canon_of_length_le hp hlen
  · cases herr.symm.trans h

/-- What passes the capacity check of a matrix of canonical forms has register values as cells (R21, R168). -/
theorem Mat.canonical_of_fitMat_canon {p : Params} (hp : p.wf = true) {X : Mat Nat} {R : Mat BigUint}
    (h : fitMat p (X.map (canon p.radix)) = .ok R) : R.Canonical p := by
  rcases fitMat_cases p (X.map (canon p.radix)) with ⟨⟨h00, h01, h10, h11⟩, hok⟩ | ⟨-, herr⟩
  · cases hok.symm.trans h
    exact ⟨canonicalBig_canon_of_length_le hp h00, canonicalBig_canon_of_length_le hp h01,
      canonicalBig_canon_of_length_le hp h10, canonicalBig_canon_of_length_le hp h11⟩
  · cases herr.symm.trans h

/-- `Store` keeps only matrices of register values (R168). -/
theorem Mat.canonical_of_store {p : Params} (hp : p.wf = true) {t : LCtrl} {X : Mat Nat} {R : Mat BigUint}
    (h : store p t X = .ok R) : R.Canonical p :=
  Mat.canonical_of_fitMat_canon (X := X.map (truncValue p.radix t)) hp h

/-- The empty sequence is a register value: zero (R20, R21). -/
theorem canonicalBig_nil (p : Params) : canonicalBig p [] = true := by
  simp [canonicalBig]

/-- The one-limb sequence of 1 is a register value (R21). -/
theorem canonicalBig_one {p : Params} (hp : p.wf = true) : canonicalBig p [1] = true := by
  have h10 := radix_pos_of_wf hp
  have h3 := three_le_maxLimbs_of_wf hp
  refine (canonicalBig_iff p [1]).2 ⟨?_, by decide, by simp only [List.length_singleton]; omega⟩
  intro l hl
  cases List.mem_singleton.1 hl
  calc (1 : Limb).toNat = 1 := rfl
    _ < p.radix := by omega

/-- One iteration of the loop of R163 while E is not 0: fold where E[0] = 1, square, shift. -/
theorem powLoop_succ (p : Params) (t : LCtrl) (n : Nat) (acc base : Mat BigUint) {e : Word} (he : e ≠ 0) :
    powLoop p t (n + 1) acc base e =
      (if e.getLsbD 0 then store p t (engineProduct p acc base) else .ok acc) >>= fun acc' =>
        store p t (engineProduct p base base) >>= fun base' => powLoop p t n acc' base' (e >>> 1) := by
  rw [powLoop, if_neg he]
  split
  · rfl
  · rfl

/-- The loop of R163 leaves register values in ACC: it starts from such a matrix and stores through `Store`. -/
theorem Mat.canonical_of_powLoop {p : Params} (hp : p.wf = true) (t : LCtrl) :
    ∀ (fuel : Nat) (acc base : Mat BigUint) (e : Word) (P : Mat BigUint), acc.Canonical p →
      powLoop p t fuel acc base e = .ok P → P.Canonical p := by
  intro fuel
  induction fuel with
  | zero =>
    intro acc base e P hacc h
    cases h
    exact hacc
  | succ n ih =>
    intro acc base e P hacc h
    by_cases he : e = 0
    · rw [powLoop, if_pos he] at h
      cases h
      exact hacc
    · rw [powLoop_succ p t n acc base he] at h
      obtain ⟨acc', hfold, h⟩ := (bind_ok_iff _ _ _).1 h
      obtain ⟨base', -, h⟩ := (bind_ok_iff _ _ _).1 h
      refine ih acc' base' _ P ?_ h
      split at hfold
      · exact Mat.canonical_of_store hp hfold
      · cases hfold
        exact hacc

/-- `PowLoop(X, e)` gives register values (R162, R163). -/
theorem Mat.canonical_of_powMat {p : Params} (hp : p.wf = true) {t : LCtrl} {X P : Mat BigUint} {e : Word}
    (h : powMat p t X e = .ok P) : P.Canonical p :=
  Mat.canonical_of_powLoop hp t 64 matI X e P
    ⟨canonicalBig_one hp, canonicalBig_nil p, canonicalBig_nil p, canonicalBig_one hp⟩ h

/-! ## The shapes of a completion (R23, R92, R201) -/

/-- What a completion on `u` can be: the new value, where one is written, is a register value if `u` is sound. -/
inductive State.Completion (u : State) : State → Prop where
  /-- Nothing but STATUS: NOP, and every error. -/
  | status (c : ErrCode) : State.Completion u (u.finish c)
  /-- One V register. -/
  | vreg (d : VReg) (L : BigUint) (hL : u.Sound → canonicalBig u.params L = true) :
      State.Completion u ((u.setV d L).finish .none)
  /-- The four cells of one matrix. -/
  | matrix (k : MReg) (R : Mat BigUint) (hR : u.Sound → R.Canonical u.params) :
      State.Completion u ((u.setM k R).finish .none)
  /-- RESULT, by LOWDIG. -/
  | result (r : Word) : State.Completion u ((u.setResult r).finish .none)
  /-- OUTBUF, by DECSTR. -/
  | outbuf (i : VReg) :
      State.Completion u ((u.setOutbuf (decimalString u.params.limbDigits (u.V i))).finish .none)

/-- A completion is one of the shapes as soon as its success is: an error changes STATUS alone (R201). -/
theorem State.Completion.of_complete {u t : State} {r : Except ErrCode State} (h : u.complete r = .next t)
    (hr : ∀ w, r = .ok w → u.Completion (w.finish .none)) : u.Completion t := by
  rcases complete_cases u r with ⟨w, hw, hc⟩ | ⟨c, -, hc⟩
  · cases hc.symm.trans h
    exact hr w hw
  · cases hc.symm.trans h
    exact .status c

/-- The common end of VCONST, VLIMBIN, VADD, VMUL and FIB: a number's canonical form, checked and stored. -/
theorem State.Completion.of_fit_canon {u w : State} {d : VReg} {x : Nat}
    (h : (do let L ← fit u.params (canon u.radix x); return u.setV d L) = Except.ok w) :
    u.Completion (w.finish .none) := by
  obtain ⟨L, hfit, hw⟩ := (bind_ok_iff _ _ _).1 h
  cases hw
  exact .vreg d L fun hs => canonicalBig_of_fit_canon hs.params_wf hfit

theorem execVzero_completion {d : VReg} {s t : State} (h : execVzero d s = .next t) : s.Completion t := by
  cases h
  exact .vreg d [] fun _ => canonicalBig_nil _

theorem execVconst_completion {d : VReg} {s t : State} (h : execVconst d s = .next t) : s.Completion t :=
  .of_complete h fun _ hw => .of_fit_canon hw

theorem execVmov_completion {d a : VReg} {s t : State} (h : execVmov d a s = .next t) : s.Completion t := by
  cases h
  exact .vreg d (s.V a) fun hs => sound_V hs a

theorem execVlimbin_completion {d : VReg} {s t : State} (h : execVlimbin d s = .next t) : s.Completion t := by
  refine .of_complete h fun w hw => ?_
  obtain ⟨limb, -, hw⟩ := (bind_ok_iff _ _ _).1 hw
  exact .of_fit_canon hw

theorem execVadd_completion {d a b : VReg} {s t : State} (h : execVadd d a b s = .next t) : s.Completion t :=
  .of_complete h fun _ hw => .of_fit_canon hw

theorem execVmul_completion {d a b : VReg} {s t : State} (h : execVmul d a b s = .next t) : s.Completion t := by
  refine .of_complete h fun w hw => ?_
  rw [mulBig_eq_canon] at hw
  exact .of_fit_canon hw

theorem execMmul_completion {d a b : MReg} {s t : State} (h : execMmul d a b s = .next t) : s.Completion t := by
  unfold execMmul at h
  split at h
  · refine .of_complete h fun w hw => ?_
    obtain ⟨R, hfit, hw⟩ := (bind_ok_iff _ _ _).1 hw
    cases hw
    exact .matrix d R fun hs => Mat.canonical_of_fitMat_canon hs.params_wf hfit
  · cases h
    exact .status .illegalCmd

/-- MPOW completes on the state with the working registers drawn anew, unless its word spells no command (R39, R82). -/
theorem execMpow_completion {d a : MReg} {s t : State} (h : execMpow d a s = .next t) :
    s.Completion t ∨ s.drawWork.Completion t := by
  unfold execMpow at h
  split at h
  · refine .inr (.of_complete h fun w hw => ?_)
    obtain ⟨-, -, hw⟩ := (bind_ok_iff _ _ _).1 hw
    obtain ⟨P, hpow, hw⟩ := (bind_ok_iff _ _ _).1 hw
    cases hw
    exact .matrix d P fun hs => Mat.canonical_of_powMat hs.params_wf hpow
  · cases h
    exact .inl (.status .illegalCmd)

theorem execFib_completion {d : VReg} {s t : State} (h : execFib d s = .next t) : s.drawWork.Completion t := by
  refine .of_complete h fun w hw => ?_
  obtain ⟨-, -, hw⟩ := (bind_ok_iff _ _ _).1 hw
  obtain ⟨n, -, hw⟩ := (bind_ok_iff _ _ _).1 hw
  obtain ⟨x, -, hw⟩ := (bind_ok_iff _ _ _).1 hw
  exact .of_fit_canon (u := s.drawWork) hw

theorem execLowdig_completion {a : VReg} {s t : State} (h : execLowdig a s = .next t) : s.Completion t := by
  refine .of_complete h fun w hw => ?_
  obtain ⟨k, -, hw⟩ := (bind_ok_iff _ _ _).1 hw
  cases hw
  exact .result _

theorem execDecstr_completion {a : VReg} {s t : State} (h : execDecstr a s = .next t) : s.Completion t := by
  cases h
  exact .outbuf a

/-- What the completion of any command can be (R92). -/
theorem exec_completion {i : Instr} {s t : State} (h : exec i s = .next t) :
    s.Completion t ∨ s.drawWork.Completion t := by
  cases i with
  | nop => cases h; exact .inl (.status .none)
  | vzero rd => exact .inl (execVzero_completion h)
  | vconst rd => exact .inl (execVconst_completion h)
  | vmov rd rs1 => exact .inl (execVmov_completion h)
  | vlimbin rd => exact .inl (execVlimbin_completion h)
  | vadd rd rs1 rs2 => exact .inl (execVadd_completion h)
  | vmul rd rs1 rs2 => exact .inl (execVmul_completion h)
  | mmul rd rs1 rs2 => exact .inl (execMmul_completion h)
  | mpow rd rs1 => exact execMpow_completion h
  | fib rd => exact .inr (execFib_completion h)
  | lowdig rs1 => exact .inl (execLowdig_completion h)
  | decstr rs1 => exact .inl (execDecstr_completion h)

end Sys2Proof.Machine
end

section
/-!
PROOF. Decimal spellings (R141, R142): `decimal` and `pad` are the usual decimal digits, and the string DECSTR builds
limb by limb is the decimal spelling of the register's value.
-/

namespace Sys2Proof.Machine

open Sys2Proof.Config

/-! ## `decimal` digit by digit (R142) -/

/-- `decimalDigits` with enough fuel gives Mathlib's digits in base 10. -/
theorem decimalDigits_eq_digits : ∀ fuel x, x < 10 ^ fuel → decimalDigits fuel x = Nat.digits 10 x := by
  intro fuel
  induction fuel with
  | zero =>
    intro x hx
    have : x = 0 := by simpa using hx
    simp [decimalDigits, this]
  | succ n ih =>
    intro x hx
    by_cases h0 : x = 0
    · simp [decimalDigits, h0]
    · have hq : x / 10 < 10 ^ n := Nat.div_lt_of_lt_mul (by rwa [pow_succ'] at hx)
      rw [decimalDigits, if_neg h0, ih _ hq, Nat.digits_def' (by decide) (Nat.pos_of_ne_zero h0)]

/-- `decimal` of a number that is not 0, through Mathlib's digits. -/
theorem decimal_eq_digits {x : Nat} (h0 : x ≠ 0) : decimal x = ((Nat.digits 10 x).map digitChar).reverse := by
  rw [decimal, if_neg h0, decimalDigits_eq_digits _ _ (lt_pow_log2_succ (by decide) x)]

/-- A number of one digit is spelled by that digit. -/
theorem decimal_of_lt_ten {x : Nat} (h : x < 10) : decimal x = [digitChar x] := by
  by_cases h0 : x = 0
  · rw [decimal, if_pos h0, h0]
  · rw [decimal_eq_digits h0, Nat.digits_of_lt 10 x h0 h]
    rfl

/-- A longer number is spelled by its upper digits and then its last. -/
theorem decimal_of_ten_le {x : Nat} (h : 10 ≤ x) : decimal x = decimal (x / 10) ++ [digitChar (x % 10)] := by
  have hx : x ≠ 0 := by omega
  have hq : x / 10 ≠ 0 := by omega
  rw [decimal_eq_digits hx, decimal_eq_digits hq, Nat.digits_def' (by decide) (Nat.pos_of_ne_zero hx), List.map_cons,
    List.reverse_cons]

/-- A number below 10^k is spelled in at most k digits. -/
theorem decimal_length_le {x k : Nat} (hk : 0 < k) (hx : x < 10 ^ k) : (decimal x).length ≤ k := by
  by_cases h0 : x = 0
  · rw [h0, decimal_of_lt_ten (by decide)]
    exact hk
  · rw [decimal_eq_digits h0, List.length_reverse, List.length_map]
    exact (Nat.digits_length_le_iff (by decide) x).2 hx

/-- Every character of a decimal spelling is a digit, 0x30 to 0x39 (R141). -/
theorem decimal_digit_range (x : Nat) : ∀ c ∈ decimal x, 0x30 ≤ c.toNat ∧ c.toNat ≤ 0x39 := by
  have hdigit : ∀ d < 10, 0x30 ≤ (digitChar d).toNat ∧ (digitChar d).toNat ≤ 0x39 := by decide
  induction x using Nat.strong_induction_on with
  | _ x ih =>
    intro c hc
    rcases Nat.lt_or_ge x 10 with h | h
    · rw [decimal_of_lt_ten h, List.mem_singleton] at hc
      exact hc ▸ hdigit x h
    · rw [decimal_of_ten_le h, List.mem_append, List.mem_singleton] at hc
      rcases hc with hc | rfl
      · exact ih (x / 10) (by omega) c hc
      · exact hdigit _ (by omega)

/-- Read as characters, `decimal` is the library's decimal spelling. -/
theorem decimal_eq_toDigits (x : Nat) : (decimal x).map (fun c => Char.ofNat c.toNat) = Nat.toDigits 10 x := by
  have hchar : ∀ d < 10, Char.ofNat (digitChar d).toNat = Nat.digitChar d := by decide
  induction x using Nat.strong_induction_on with
  | _ x ih =>
    rcases Nat.lt_or_ge x 10 with h | h
    · rw [decimal_of_lt_ten h, Nat.toDigits_of_lt_base h, List.map_singleton, hchar x h]
    · rw [decimal_of_ten_le h, Nat.toDigits_of_base_le (by decide) h, List.map_append, ih (x / 10) (by omega),
        List.map_singleton, hchar _ (by omega)]

/-! ## Padded limbs (R142) -/

/-- A padded number of w + 1 digits is its upper w digits, padded, and then its last. -/
theorem pad_decimal_succ {w : Nat} (hw : 1 ≤ w) (x : Nat) :
    pad (decimal x) (w + 1) = pad (decimal (x / 10)) w ++ [digitChar (x % 10)] := by
  rcases Nat.lt_or_ge x 10 with h | h
  · obtain ⟨v, rfl⟩ : ∃ v, w = v + 1 := ⟨w - 1, by omega⟩
    rw [decimal_of_lt_ten h, Nat.div_eq_of_lt h, Nat.mod_eq_of_lt h, decimal_of_lt_ten (by decide)]
    simp [pad, List.replicate_succ']
  · rw [decimal_of_ten_le h]
    simp [pad]

/-- A spelling followed by a padded limb of w digits spells the number shifted up by w digits plus the limb. -/
theorem decimal_append_pad {n : Nat} (hn : 0 < n) {w : Nat} (hw : 1 ≤ w) :
    ∀ l, l < 10 ^ w → decimal n ++ pad (decimal l) w = decimal (n * 10 ^ w + l) := by
  induction w, hw using Nat.le_induction with
  | base =>
    intro l hl
    have hlt : l < 10 := by simpa using hl
    have hq : (n * 10 ^ 1 + l) / 10 = n := by omega
    have hr : (n * 10 ^ 1 + l) % 10 = l := by omega
    rw [decimal_of_ten_le (x := n * 10 ^ 1 + l) (by omega), hq, hr, decimal_of_lt_ten hlt]
    rfl
  | succ w hw ih =>
    intro l hl
    have hlq : l / 10 < 10 ^ w := Nat.div_lt_of_lt_mul (by rwa [pow_succ'] at hl)
    have hsplit : n * 10 ^ (w + 1) + l = 10 * (n * 10 ^ w) + l := by ring
    have hpos : 0 < n * 10 ^ w := Nat.mul_pos hn (Nat.pow_pos (by decide))
    have hq : (10 * (n * 10 ^ w) + l) / 10 = n * 10 ^ w + l / 10 := by omega
    have hr : (10 * (n * 10 ^ w) + l) % 10 = l % 10 := by omega
    rw [hsplit, decimal_of_ten_le (x := 10 * (n * 10 ^ w) + l) (by omega), hq, hr, pad_decimal_succ hw,
      ← List.append_assoc, ih _ hlq]

/-- The lower limbs, each padded, extend the spelling of the number read so far (R142, R143). -/
theorem decimal_append_flatMap_pad {w : Nat} (hw : 1 ≤ w) :
    ∀ (lower : BigUint) (n : Nat), 0 < n → (∀ l ∈ lower, l.toNat < 10 ^ w) →
      (decimal n ++ lower.flatMap fun l => pad (decimal l.toNat) w) =
        decimal (lower.foldl (fun x l => x * 10 ^ w + l.toNat) n) := by
  intro lower
  induction lower with
  | nil =>
    intro n _ _
    simp
  | cons l ls ih =>
    intro n hn hlt
    have hl : l.toNat < 10 ^ w := hlt l (by simp)
    have hpos : 0 < n * 10 ^ w + l.toNat := Nat.add_pos_left (Nat.mul_pos hn (Nat.pow_pos (by decide))) _
    rw [List.flatMap_cons, ← List.append_assoc, decimal_append_pad hn hw _ hl, List.foldl_cons]
    exact ih _ hpos fun m hm => hlt m (by simp [hm])

/-- A limb holds at least one decimal digit (R5). -/
theorem limbDigits_pos_of_wf {p : Params} (h : p.wf = true) : 1 ≤ p.limbDigits := by
  simp only [Params.wf, Bool.and_eq_true, decide_eq_true_eq] at h
  obtain ⟨⟨⟨hpos, -⟩, -⟩, -⟩ := h
  exact hpos

/-- `val` read from the most significant limb down (R10, R105). -/
theorem val_eq_foldl_reverse (B : Nat) (L : BigUint) : val B L = L.reverse.foldl (fun x l => x * B + l.toNat) 0 := by
  rw [List.foldl_reverse]
  induction L with
  | nil => rfl
  | cons l ls ih => rw [val_cons, List.foldr_cons, ← ih]; ring

/-- The string DECSTR builds from a register's limbs is the decimal spelling of its value (R142). -/
theorem decimalString_eq_decimal {p : Params} (hp : p.wf = true) {L : BigUint} (h : canonicalBig p L = true) :
    decimalString p.limbDigits L = decimal (val p.radix L) := by
  obtain ⟨hlt, hlast, -⟩ := (canonicalBig_iff p L).1 h
  rw [val_eq_foldl_reverse, decimalString]
  cases hL : L.reverse with
  | nil => rfl
  | cons top lower =>
    have hmem : ∀ l ∈ top :: lower, l ∈ L := fun l hl => List.mem_reverse.1 (hL ▸ hl)
    have htop : 0 < top.toNat := by
      have htop0 : top ≠ 0 := by
        rintro rfl
        exact hlast (by rw [← List.head?_reverse, hL]; rfl)
      exact Nat.pos_of_ne_zero fun h0 => htop0 (BitVec.eq_of_toNat_eq h0)
    have := decimal_append_flatMap_pad (limbDigits_pos_of_wf hp) lower top.toNat htop
      fun l hl => hlt l (hmem l (List.mem_cons_of_mem _ hl))
    rw [List.foldl_cons, Nat.zero_mul, Nat.zero_add]
    exact this

/-- The string DECSTR builds fits OUTBUF (R33, R142). -/
theorem decimalString_length_le {p : Params} (hp : p.wf = true) {L : BigUint} (h : canonicalBig p L = true) :
    (decimalString p.limbDigits L).length ≤ p.outCap := by
  have hval : val p.radix L < 10 ^ p.outCap := by
    have := val_lt_of_canonical hp h
    rwa [Params.radix, ← Nat.pow_mul] at this
  have hpos : 0 < p.outCap :=
    Nat.mul_pos (limbDigits_pos_of_wf hp) (by have := three_le_maxLimbs_of_wf hp; omega)
  rw [decimalString_eq_decimal hp h]
  exact decimal_length_le hpos hval

end Sys2Proof.Machine
end

section
/-!
PROOF. DECSTR leaves the decimal spelling of its register's value in OUTBUF (R142).
-/

namespace Sys2Proof.Machine

/-- DECSTR writes its string to OUTBUF and completes without an error (R142). -/
theorem exec_decstr (a : VReg) (s : State) :
    exec (.decstr a) s =
      .next ((s.setOutbuf (decimalString s.params.limbDigits (s.V a))).finish .none) := rfl

/-- DECSTR's word, its fields written out (R87). -/
theorem encode_decstr (a : VReg) : encode (.decstr a) = 0x41#64 ||| a.setWidth 64 <<< 12 := by
  simp [encode, commandWord]

/-- Settles O34: the string is `decimal` of the value, and a value below B^MAXLIMBS has at most OUTCAP digits. -/
theorem decstrSpellsTheValueInDecimal : Obligations.DecstrSpellsTheValueInDecimal := by
  intro a s hs
  have hV := sound_V hs a
  refine ⟨fun w => ?_, _, exec_decstr a s, ?_, decimalString_length_le hs.params_wf hV, rfl⟩
  · rw [decode_eq_ok_iff, encode_decstr]
    exact and_iff_right rfl
  · change (decimalString s.params.limbDigits (s.V a)).map (fun c => Char.ofNat c.toNat) = _
    rw [decimalString_eq_decimal hs.params_wf hV, decimal_eq_toDigits]
    rfl

end Sys2Proof.Machine
end

section
/-!
PROOF. The parameters are constants (R5, R6), and the reset state has the values of R231.
-/

namespace Sys2Proof.Machine

open Sys2Proof.Config

/-! ## The parameters are constants (R5, R6) -/

theorem State.Completion.params_eq {u t : State} (h : u.Completion t) : t.params = u.params := by
  cases h with
  | status c => rfl
  | vreg d L hL => rfl
  | matrix k R hR => rfl
  | result r => rfl
  | outbuf i => rfl

theorem exec_params {i : Instr} {s t : State} (h : exec i s = .next t) : t.params = s.params := by
  rcases exec_completion h with hc | hc
  · exact hc.params_eq
  · exact hc.params_eq

theorem runEngine_params {s t : State} (h : s.runEngine = .next t) : t.params = s.params := by
  rcases runEngine_cases h with ⟨-, rfl⟩ | ⟨-, -, rfl⟩ | ⟨-, i, -, hexec⟩
  · rfl
  · rfl
  · exact exec_params hexec

theorem hostRead_params {s t : State} {off n : Nat} (h : s.hostRead off n = .next t) : t.params = s.params := by
  rcases hostRead_cases h with ⟨-, rfl⟩ | ⟨-, -, -, -, rfl⟩ | ⟨-, -, -, rfl⟩
  · rfl
  · rfl
  · rfl

theorem writeReg_params (s : State) (r : HostReg) (w : Word) : (s.writeReg r w).params = s.params := by
  cases r with
  | cmd => cases hp : s.phase <;> simp [State.writeReg, hp]
  | _ => rfl

theorem hostWrite_params {s t : State} {off n : Nat} {w : Word} (h : s.hostWrite off n w = .next t) :
    t.params = s.params := by
  rcases hostWrite_cases h with ⟨-, rfl⟩ | ⟨-, -, rfl⟩
  · rfl
  · exact writeReg_params s _ w

theorem step_params {s t : State} (h : step s = .next t) : t.params = s.params := by
  rcases step_cases h with
    ⟨-, h⟩ | ⟨e, rest, -, ⟨-, h⟩ | ⟨off, n, -, h⟩ | ⟨off, n, w, -, h⟩ | ⟨-, rfl⟩ | ⟨-, rfl⟩⟩
  · exact runEngine_params h
  · exact (runEngine_params h).trans (withInbox_params rest s)
  · exact (hostRead_params h).trans (withInbox_params rest s)
  · exact (hostWrite_params h).trans (withInbox_params rest s)
  · rfl
  · rfl

/-- Settles O60: CFG0 and CFG1 are read off the parameters alone. -/
theorem noStepChangesTheParameters : Obligations.NoStepChangesTheParameters := by
  intro s t h
  have hp : t.params = s.params := step_params h
  exact ⟨hp, congrArg cfg0Word hp, congrArg cfg1Word hp⟩

/-! ## The reset values (R231) -/

@[simp] theorem V_resetWith (p : Params) (i : VReg) : (State.resetWith p).V i = [] := by
  simp [State.V, State.resetWith]

theorem valM_resetWith (p : Params) (k : MReg) : (State.resetWith p).valM k = Mat.fill 0 := by
  simp [State.valM, State.M, Mat.map, Mat.fill]

/-- Settles O57: CTRL and STATUS do not show the parameters, so they are evaluated at the standard choice. -/
theorem resetStateHasTheTabledValues : Obligations.ResetStateHasTheTabledValues := by
  refine ⟨fun p => ⟨V_resetWith p, valM_resetWith p, ?_⟩, Params.standard, by decide, rfl, rfl⟩
  have hctrl : State.reset.ctrl.word = 0 := by decide
  have hstatus : State.reset.statusWord = 0 := by decide
  exact ⟨hctrl, hstatus, rfl, rfl, rfl, rfl, rfl, rfl, rfl, rfl, rfl, rfl, rfl, rfl, rfl, rfl, rfl⟩

end Sys2Proof.Machine
end

section
/-!
PROOF. Every step keeps the invariant. Outside reset each state operation keeps it, so each shape of a completion and
each register write does; while rst is asserted only the port, the pending events, the draw counter and rst itself can
change.
-/

namespace Sys2Proof.Machine

open Sys2Proof.Config

/-! ## The unspecified working registers have their storage (R39) -/

theorem freeMat_sized (p : Params) (draw first : Nat) : (freeMat p draw first).sized p = true := by
  simp [Mat.sized, freeMat]

theorem freeWork_sized (p : Params) (draw : Nat) :
    (freeWork p draw).acc.sized p = true ∧ (freeWork p draw).base.sized p = true ∧
      (freeWork p draw).scratch.length = 2 * p.maxLimbs + 2 :=
  ⟨freeMat_sized p draw 0, freeMat_sized p draw 4, by simp [freeWork]⟩

/-! ## The invariant outside reset -/

/-- The invariant of a machine that is not in reset: its clause on reset (R230) then asks nothing. -/
structure State.Live (s : State) : Prop where
  /-- The invariant. -/
  inv : s.Inv
  /-- rst is not asserted. -/
  running : s.rst = false

/-- Outside reset nothing is held (R230). -/
theorem held_of_running {s : State} {P : Prop} (h : s.rst = false) : s.rst = true → P := by
  intro hr
  cases h.symm.trans hr

theorem State.Inv.sound {s : State} (h : s.Inv) : s.Sound := ⟨h.params_wf, h.canonical⟩

theorem State.Live.sound {s : State} (h : s.Live) : s.Sound := h.inv.sound

theorem State.Live.finish {s : State} (h : s.Live) (c : ErrCode) : (s.finish c).Live :=
  ⟨{ h.inv with
      busy_status := fun hb => by cases hb
      held_in_reset := held_of_running h.running }, h.running⟩

theorem State.Live.drawWork {s : State} (h : s.Live) : s.drawWork.Live :=
  ⟨{ h.inv with
      work_sized := freeWork_sized s.params s.draws
      held_in_reset := held_of_running h.running }, h.running⟩

theorem State.Live.setV {s : State} (h : s.Live) (d : VReg) {L : BigUint} (hL : canonicalBig s.params L = true) :
    (s.setV d L).Live :=
  ⟨{ h.inv with
      canonical := canonical_setV h.inv.canonical d hL
      held_in_reset := held_of_running h.running }, h.running⟩

theorem State.Live.setM {s : State} (h : s.Live) (k : MReg) {R : Mat BigUint} (hR : R.Canonical s.params) :
    (s.setM k R).Live := by
  obtain ⟨h00, h01, h10, h11⟩ := hR
  exact (((h.setV _ h00).setV _ h01).setV _ h10).setV _ h11

theorem State.Live.setResult {s : State} (h : s.Live) (r : Word) : (s.setResult r).Live :=
  ⟨{ h.inv with held_in_reset := held_of_running h.running }, h.running⟩

/-- DECSTR's string has at most OUTCAP characters, all of them digits (R33, R141). -/
theorem State.Live.setOutbuf {s : State} (h : s.Live) (i : VReg) :
    (s.setOutbuf (decimalString s.params.limbDigits (s.V i))).Live := by
  have hV := sound_V h.sound i
  have hdigits := decimal_digit_range (val s.params.radix (s.V i))
  rw [← decimalString_eq_decimal h.inv.params_wf hV] at hdigits
  exact ⟨{ h.inv with
      outbuf_fits := decimalString_length_le h.inv.params_wf hV
      outbuf_digits := hdigits
      held_in_reset := held_of_running h.running }, h.running⟩

/-- Every shape of a completion keeps the invariant. -/
theorem State.Completion.live {u t : State} (hc : u.Completion t) (h : u.Live) : t.Live := by
  cases hc with
  | status c => exact h.finish c
  | vreg d L hL => exact (h.setV d (hL h.sound)).finish .none
  | matrix k R hR => exact (h.setM k (hR h.sound)).finish .none
  | result r => exact (h.setResult r).finish .none
  | outbuf i => exact (h.setOutbuf i).finish .none

theorem exec_live {i : Instr} {s t : State} (h : s.Live) (hexec : exec i s = .next t) : t.Live := by
  rcases exec_completion hexec with hc | hc
  · exact hc.live h
  · exact hc.live h.drawWork

/-! ## Host writes outside reset (R66, R90, R91) -/

/-- Acceptance clears DONE and ERRCODE and makes CMD the running command (R90). -/
theorem State.Live.accept {s : State} (h : s.Live) (w : Word) : (s.accept w).Live :=
  ⟨{ h.inv with
      busy_status := fun _ => ⟨rfl, rfl, rfl⟩
      held_in_reset := held_of_running h.running }, h.running⟩

/-- Clearing DONE leaves it clear while a command runs (R25). -/
theorem State.Live.clearStatus {s : State} (h : s.Live) (w : Word) : (s.clearStatus w).Live := by
  refine ⟨{ h.inv with
      busy_status := fun hb => ?_
      held_in_reset := held_of_running h.running }, h.running⟩
  obtain ⟨hdone, herr, hcmd⟩ := h.inv.busy_status hb
  exact ⟨by rw [clearStatus_done, hdone, Bool.false_and], herr, hcmd⟩

theorem State.Live.writeReg {s : State} (h : s.Live) (r : HostReg) (w : Word) : (s.writeReg r w).Live := by
  cases r with
  | cmd =>
    unfold State.writeReg
    cases s.phase with
    | idle => exact h.accept w
    | busy => exact ⟨{ h.inv with held_in_reset := held_of_running h.running }, h.running⟩
  | status => exact h.clearStatus w
  | ctrl | arg0 | rdSel | rdIdx | outIdx =>
    exact ⟨{ h.inv with held_in_reset := held_of_running h.running }, h.running⟩
  | cfg0 | cfg1 | result | rdLen | rdLimb | outLen | outChar | reserved => exact h

/-! ## Operations that also run in reset (R230) -/

theorem State.Inv.withInbox {s : State} (h : s.Inv) (es : List Event) : (s.withInbox es).Inv :=
  { h with held_in_reset := fun hr => congrArg (State.withInbox es) (h.held_in_reset hr) }

theorem State.Inv.respond {s : State} (h : s.Inv) (a : Port) : (s.respond a).Inv :=
  { h with held_in_reset := fun hr => congrArg (State.respond a) (h.held_in_reset hr) }

theorem State.Inv.releaseReset {s : State} (h : s.Inv) : s.releaseReset.Inv :=
  { h with held_in_reset := fun hr => by cases hr }

/-- Every V register of the reset state is empty, so canonical (R21, R231). -/
theorem canonical_resetWith (p : Params) : (State.resetWith p).canonical = true := by
  rw [canonical_iff]
  intro i
  rw [V_resetWith]
  exact canonicalBig_nil p

/-- An asserted reset needs legal parameters alone: all else takes its reset value (R230, R231). -/
theorem assertReset_inv {s : State} (hp : s.params.wf = true) : s.assertReset.Inv where
  params_wf := hp
  canonical := canonical_resetWith s.params
  outbuf_fits := Nat.zero_le _
  outbuf_digits := fun _ hc => absurd hc List.not_mem_nil
  busy_status := fun hb => by cases hb
  work_sized := freeWork_sized s.params s.draws
  held_in_reset := fun _ => rfl

/-! ## One step -/

theorem runEngine_inv {s t : State} (h : s.Inv) (hrun : s.runEngine = .next t) : t.Inv := by
  have live_of_enabled (hen : s.engineEnabled = true) : s.Live := by
    simp only [State.engineEnabled, Bool.and_eq_true, Bool.not_eq_true'] at hen
    exact ⟨h, hen.2⟩
  rcases runEngine_cases hrun with ⟨-, rfl⟩ | ⟨hen, -, rfl⟩ | ⟨hen, i, -, hexec⟩
  · exact h
  · exact ((live_of_enabled hen).finish .illegalCmd).inv
  · exact (exec_live (live_of_enabled hen) hexec).inv

theorem hostRead_inv {s t : State} {off n : Nat} (h : s.Inv) (hread : s.hostRead off n = .next t) : t.Inv := by
  rcases hostRead_cases hread with ⟨-, rfl⟩ | ⟨hrst, -, -, -, rfl⟩ | ⟨-, -, -, rfl⟩
  · exact h.respond _
  · exact { h with held_in_reset := held_of_running hrst }
  · exact h.respond _

theorem hostWrite_inv {s t : State} {off n : Nat} {w : Word} (h : s.Inv) (hwrite : s.hostWrite off n w = .next t) :
    t.Inv := by
  rcases hostWrite_cases hwrite with ⟨-, rfl⟩ | ⟨hrst, -, rfl⟩
  · exact h.respond .done
  · exact ((State.Live.mk h hrst).writeReg _ w).inv.respond .done

/-- Settles O59: each kind of step of R69 keeps the invariant. -/
theorem everyStepKeepsTheInvariant : Obligations.EveryStepKeepsTheInvariant := by
  intro s t hs hstep
  rcases step_cases hstep with
    ⟨-, h⟩ | ⟨e, rest, -, ⟨-, h⟩ | ⟨off, n, -, h⟩ | ⟨off, n, w, -, h⟩ | ⟨-, rfl⟩ | ⟨-, rfl⟩⟩
  · exact runEngine_inv hs h
  · exact runEngine_inv (hs.withInbox rest) h
  · exact hostRead_inv (hs.withInbox rest) h
  · exact hostWrite_inv (hs.withInbox rest) h
  · exact assertReset_inv hs.params_wf
  · exact (hs.withInbox rest).releaseReset

end Sys2Proof.Machine
end

section
/-!
PROOF. What a command may write (R23): every command completes, and what it leaves is a finish of a state in which only
the registers its rule names have been written.
-/

namespace Sys2Proof.Machine

/-! ## Permitted writes (R23) -/

/-- `w` is `s` with nothing written but what the rule of command `i` names (R23), STATUS and the phase apart. -/
structure State.Writes (i : Instr) (s w : State) : Prop where
  /-- No field but these five is written. -/
  frame : w = { s with v := w.v, result := w.result, outbuf := w.outbuf, work := w.work, draws := w.draws }
  /-- V registers only among the destinations. -/
  regs : ∀ r : VReg, r ∉ destRegs i → w.V r = s.V r
  /-- RESULT only by LOWDIG (R28). -/
  result : (∀ r, i ≠ .lowdig r) → w.result = s.result
  /-- OUTBUF only by DECSTR (R33). -/
  outbuf : (∀ r, i ≠ .decstr r) → w.outbuf = s.outbuf
  /-- The working registers only by MPOW and FIB (R39). -/
  work : usesEngine i = false → w.work = s.work ∧ w.draws = s.draws

theorem State.Writes.refl (i : Instr) (s : State) : s.Writes i s :=
  ⟨rfl, fun _ _ => rfl, fun _ => rfl, fun _ => rfl, fun _ => ⟨rfl, rfl⟩⟩

theorem State.Writes.setV {i : Instr} {s w : State} (h : s.Writes i w) {d : VReg} (hd : d ∈ destRegs i)
    (L : BigUint) : s.Writes i (w.setV d L) :=
  { h with
    frame := congrArg (State.setV d L) h.frame
    regs := fun r hr => by
      have hne : r ≠ d := fun he => hr (he ▸ hd)
      rw [V_setV_other hne, h.regs r hr] }

theorem State.Writes.setM {i : Instr} {s w : State} (h : s.Writes i w) {k : MReg}
    (hk : destRegs i = [cellReg k 0, cellReg k 1, cellReg k 2, cellReg k 3]) (R : Mat BigUint) :
    s.Writes i (w.setM k R) :=
  (((h.setV (by simp [hk]) R.c00).setV (by simp [hk]) R.c01).setV (by simp [hk]) R.c10).setV (by simp [hk]) R.c11

theorem State.Writes.setResult {a : VReg} {s w : State} (h : s.Writes (.lowdig a) w) (x : Word) :
    s.Writes (.lowdig a) (w.setResult x) :=
  { h with
    frame := congrArg (State.setResult x) h.frame
    result := fun hi => absurd rfl (hi a) }

theorem State.Writes.setOutbuf {a : VReg} {s w : State} (h : s.Writes (.decstr a) w) (S : List Byte) :
    s.Writes (.decstr a) (w.setOutbuf S) :=
  { h with
    frame := congrArg (State.setOutbuf S) h.frame
    outbuf := fun hi => absurd rfl (hi a) }

theorem State.Writes.drawWork {i : Instr} (hi : usesEngine i = true) (s : State) : s.Writes i s.drawWork :=
  { State.Writes.refl i s with
    frame := rfl
    work := fun hn => absurd (hn.symm.trans hi) (by decide) }

/-! ## Every command completes within its writes (R92, R201) -/

/-- The command answers the finish of a state within the writes of `i`. -/
def FinishesWithin (i : Instr) (s : State) (o : Host.Outcome State Fault Refusal) : Prop :=
  ∃ (w : State) (c : ErrCode), o = .next (w.finish c) ∧ s.Writes i w

/-- A completion stays within the permitted writes as soon as its success does: an error adds none (R201). -/
theorem finishesWithin_complete {i : Instr} {s u : State} {r : Except ErrCode State} (hu : s.Writes i u)
    (hr : ∀ w, r = .ok w → s.Writes i w) : FinishesWithin i s (u.complete r) := by
  rcases complete_cases u r with ⟨w, hw, hc⟩ | ⟨c, -, hc⟩
  · exact ⟨w, .none, hc, hr w hw⟩
  · exact ⟨u, c, hc, hu⟩

/-- The common end of VCONST, VLIMBIN, VADD, VMUL and FIB: a capacity check, then the destination. -/
theorem State.Writes.of_fit_setV {i : Instr} {s u w : State} (hu : s.Writes i u) {d : VReg} (hd : d ∈ destRegs i)
    {p : Config.Params} {x : BigUint} (h : (do let L ← fit p x; return u.setV d L) = Except.ok w) :
    s.Writes i w := by
  obtain ⟨L, -, hw⟩ := (bind_ok_iff _ _ _).1 h
  cases hw
  exact hu.setV hd L

theorem finishesWithin_execVlimbin (d : VReg) (s : State) : FinishesWithin (.vlimbin d) s (execVlimbin d s) := by
  refine finishesWithin_complete (.refl _ s) fun w hw => ?_
  obtain ⟨limb, -, hw⟩ := (bind_ok_iff _ _ _).1 hw
  exact (State.Writes.refl _ s).of_fit_setV (List.mem_singleton_self d) hw

theorem finishesWithin_execMmul (d a b : MReg) (s : State) : FinishesWithin (.mmul d a b) s (execMmul d a b s) := by
  unfold execMmul
  split
  · refine finishesWithin_complete (.refl _ s) fun w hw => ?_
    obtain ⟨R, -, hw⟩ := (bind_ok_iff _ _ _).1 hw
    cases hw
    exact (State.Writes.refl _ s).setM rfl R
  · exact ⟨s, .illegalCmd, rfl, .refl _ s⟩

theorem finishesWithin_execMpow (d a : MReg) (s : State) : FinishesWithin (.mpow d a) s (execMpow d a s) := by
  unfold execMpow
  split
  · rename_i hwf
    have hdraw : s.Writes (.mpow d a) s.drawWork := .drawWork (i := .mpow d a) hwf s
    refine finishesWithin_complete hdraw fun w hw => ?_
    obtain ⟨-, -, hw⟩ := (bind_ok_iff _ _ _).1 hw
    obtain ⟨P, -, hw⟩ := (bind_ok_iff _ _ _).1 hw
    cases hw
    exact hdraw.setM rfl P
  · exact ⟨s, .illegalCmd, rfl, .refl _ s⟩

theorem finishesWithin_execFib (d : VReg) (s : State) : FinishesWithin (.fib d) s (execFib d s) := by
  have hdraw : s.Writes (.fib d) s.drawWork := .drawWork rfl s
  refine finishesWithin_complete hdraw fun w hw => ?_
  obtain ⟨-, -, hw⟩ := (bind_ok_iff _ _ _).1 hw
  obtain ⟨n, -, hw⟩ := (bind_ok_iff _ _ _).1 hw
  obtain ⟨x, -, hw⟩ := (bind_ok_iff _ _ _).1 hw
  exact hdraw.of_fit_setV (List.mem_singleton_self d) hw

theorem finishesWithin_execLowdig (a : VReg) (s : State) : FinishesWithin (.lowdig a) s (execLowdig a s) := by
  refine finishesWithin_complete (.refl _ s) fun w hw => ?_
  obtain ⟨k, -, hw⟩ := (bind_ok_iff _ _ _).1 hw
  cases hw
  exact (State.Writes.refl _ s).setResult _

/-- Every command completes, within the writes its rule names (R23, R92). -/
theorem finishesWithin_exec (i : Instr) (s : State) : FinishesWithin i s (exec i s) := by
  have href := State.Writes.refl i s
  cases i with
  | nop => exact ⟨s, .none, rfl, href⟩
  | vzero rd => exact ⟨_, .none, rfl, href.setV (List.mem_singleton_self rd) []⟩
  | vmov rd rs1 => exact ⟨_, .none, rfl, href.setV (List.mem_singleton_self rd) (s.V rs1)⟩
  | vconst rd | vadd rd _ _ | vmul rd _ _ =>
    exact finishesWithin_complete href fun _ hw => href.of_fit_setV (List.mem_singleton_self rd) hw
  | vlimbin rd => exact finishesWithin_execVlimbin rd s
  | mmul rd rs1 rs2 => exact finishesWithin_execMmul rd rs1 rs2 s
  | mpow rd rs1 => exact finishesWithin_execMpow rd rs1 s
  | fib rd => exact finishesWithin_execFib rd s
  | lowdig rs1 => exact finishesWithin_execLowdig rs1 s
  | decstr rs1 => exact ⟨_, .none, rfl, href.setOutbuf _⟩

/-- Settles O12: the finish adds STATUS and the phase to the command's own writes. -/
theorem commandWritesOnlyWhatItsRuleNames : Obligations.CommandWritesOnlyWhatItsRuleNames := by
  intro i s
  obtain ⟨w, c, hexec, hw⟩ := finishesWithin_exec i s
  exact ⟨w.finish c, hexec, congrArg (State.finish c) hw.frame, hw.regs, hw.result, hw.outbuf, hw.work⟩

end Sys2Proof.Machine
end

section
/-!
PROOF. The matrix view (R22): the cells of M0 to M3 are sixteen different V registers, in row-major order.
-/

namespace Sys2Proof.Machine

/-- Cells of different matrices are different registers (R22). -/
theorem cellReg_ne_of_ne {j k : MReg} (hj : mfieldOk j = true) (hk : mfieldOk k = true) (hne : j ≠ k) {c d : Nat}
    (hc : c < 4) (hd : d < 4) : cellReg j c ≠ cellReg k d := by
  intro he
  have hcell := congrArg BitVec.toNat he
  rw [cellReg_toNat hj hc, cellReg_toNat hk hd] at hcell
  exact hne (BitVec.eq_of_toNat_eq (by omega))

/-- A write of a register that is no cell of `M[k]` leaves `M[k]` (R22). -/
theorem M_setV_other {k : MReg} {i : VReg} (h : ∀ c < 4, cellReg k c ≠ i) (L : BigUint) (s : State) :
    (s.setV i L).M k = s.M k := by
  simp only [State.M, V_setV_other (h 0 (by decide)), V_setV_other (h 1 (by decide)),
    V_setV_other (h 2 (by decide)), V_setV_other (h 3 (by decide))]

/-- A write of another matrix leaves `M[j]` (R22). -/
theorem M_setM_other {j k : MReg} (hj : mfieldOk j = true) (hk : mfieldOk k = true) (hne : j ≠ k)
    (R : Mat BigUint) (s : State) : (s.setM k R).M j = s.M j := by
  have cell_ne {d : Nat} (hd : d < 4) : ∀ c < 4, cellReg j c ≠ cellReg k d :=
    fun _ hc => cellReg_ne_of_ne hj hk hne hc hd
  rw [State.setM, M_setV_other (cell_ne (by decide)), M_setV_other (cell_ne (by decide)),
    M_setV_other (cell_ne (by decide)), M_setV_other (cell_ne (by decide))]

/-- A write of a cell's register changes that cell of `M[k]` alone (R22). -/
theorem M_setV_cell (k : MReg) (L : BigUint) (s : State) :
    (s.setV (cellReg k 0) L).M k = { s.M k with c00 := L } ∧
      (s.setV (cellReg k 1) L).M k = { s.M k with c01 := L } ∧
      (s.setV (cellReg k 2) L).M k = { s.M k with c10 := L } ∧
      (s.setV (cellReg k 3) L).M k = { s.M k with c11 := L } := by
  have cell_other {c d : Nat} (hc : c < 4) (hd : d < 4) (h : c ≠ d) :
      (s.setV (cellReg k d) L).V (cellReg k c) = s.V (cellReg k c) := V_setV_other (cellReg_ne k hc hd h) L s
  simp [State.M, cell_other]

/-- Settles O41: read-after-write of the view, and the cells' numbers being different. -/
theorem matricesAreViewsOfTheRegisters : Obligations.MatricesAreViewsOfTheRegisters := by
  intro k s hk
  refine ⟨cellReg_toNat hk (by decide), cellReg_toNat hk (by decide), cellReg_toNat hk (by decide),
    cellReg_toNat hk (by decide), fun L => M_setV_cell k L s, fun R => ?_,
    fun j hj hne R => M_setM_other hj hk hne R s⟩
  have hread := M_setM_same k R s
  exact ⟨congrArg Mat.c00 hread, congrArg Mat.c01 hread, congrArg Mat.c10 hread, congrArg Mat.c11 hread,
    fun _ h0 h1 h2 h3 => V_setM_other R s h0 h1 h2 h3⟩

end Sys2Proof.Machine
end

section
/-!
PROOF. The host window outside reset (R24 to R37, R61 to R66): what a read answers and what a write stores, each field of
a word read as a number.
-/

namespace Sys2Proof.Machine

open Sys2Proof.Config

/-! ## Accesses outside reset (R60, R63) -/

/-- A defined read whose answer is not drawn (R66, R68). -/
theorem step_read {s : State} {off : Nat} {rest : List Event} (hrst : s.rst = false)
    (hin : s.inbox = .read off 8 :: rest) (hok : accessOk off 8 = true)
    (hexact : (s.busy && drawnWhileBusy (regAt off)) = false) :
    step s = .next ((s.withInbox rest).respond (.data (s.readReg (regAt off)))) := by
  have hread : step s = (s.withInbox rest).hostRead off 8 := by unfold step; rw [hin]
  have hexact' : ((s.withInbox rest).busy && drawnWhileBusy (regAt off)) = false := hexact
  rw [hread, State.hostRead, withInbox_rst, hrst, hok, hexact']
  simp only [Bool.false_eq_true, Bool.not_true, if_false]
  rfl

/-- A defined write (R66). -/
theorem step_write {s : State} {off : Nat} {w : Word} {rest : List Event} (hrst : s.rst = false)
    (hin : s.inbox = .write off 8 w :: rest) (hok : accessOk off 8 = true) :
    step s = .next (((s.withInbox rest).writeReg (regAt off) w).respond .done) := by
  have hwrite : step s = (s.withInbox rest).hostWrite off 8 w := by unfold step; rw [hin]
  rw [hwrite, State.hostWrite, withInbox_rst, hrst, hok]
  simp only [Bool.false_eq_true, Bool.not_true, if_false]

/-! ## Words as numbers -/

/-- Two fields side by side do not overlap, so they add up. -/
theorem toNat_append_eq_add {m n : Nat} (x : BitVec m) (y : BitVec n) :
    (x ++ y).toNat = x.toNat * 2 ^ n + y.toNat := by
  rw [BitVec.toNat_append, ← Nat.shiftLeft_add_eq_or_of_lt y.isLt, Nat.shiftLeft_eq]

/-- One bit of a word as a number. -/
theorem toNat_getLsbD (w : Word) (i : Nat) : (w.getLsbD i).toNat = w.toNat / 2 ^ i % 2 :=
  Nat.toNat_testBit w.toNat i

/-- Some bits of a word as a number. -/
theorem toNat_extractLsb' (w : Word) (i n : Nat) : (w.extractLsb' i n).toNat = w.toNat / 2 ^ i % 2 ^ n := by
  rw [BitVec.extractLsb'_toNat, Nat.shiftRight_eq_div_pow]

/-! ## The parameters' bounds (R5, R6) -/

theorem limbDigits_le_of_wf {p : Params} (hp : p.wf = true) : p.limbDigits ≤ 9 := by
  simp only [Params.wf, Bool.and_eq_true, decide_eq_true_eq] at hp
  obtain ⟨⟨⟨-, hdigits⟩, -⟩, -⟩ := hp
  exact hdigits

/-- MAXLIMBS is a 32-bit number (R6). -/
theorem maxLimbs_lt_of_wf {p : Params} (hp : p.wf = true) : p.maxLimbs < 2 ^ 32 := by
  simp only [Params.wf, Bool.and_eq_true, decide_eq_true_eq] at hp
  obtain ⟨-, hmax⟩ := hp
  omega

/-! ## Registers as numbers (R24, R25, R32, R35 to R37) -/

theorem cfg0Word_toNat {p : Params} (hp : p.wf = true) :
    (cfg0Word p).toNat = p.radix * 2 ^ 32 + 16 * 2 ^ 8 + p.limbDigits := by
  have hradix := radix_le_of_wf hp
  have hdigits := limbDigits_le_of_wf hp
  simp only [cfg0Word, toNat_append_eq_add, BitVec.ofNat_eq_ofNat, BitVec.toNat_ofNat]
  omega

theorem cfg1Word_toNat {p : Params} (hp : p.wf = true) : (cfg1Word p).toNat = p.maxLimbs := by
  have hmax := maxLimbs_lt_of_wf hp
  simp only [cfg1Word, toNat_append_eq_add, BitVec.ofNat_eq_ofNat, BitVec.toNat_ofNat]
  omega

theorem ctrlWord_toNat (c : Ctrl) :
    c.word.toNat = c.truncLimbs.toNat * 2 ^ 32 + c.truncEn.toNat * 2 + c.irqEn.toNat := by
  simp only [Ctrl.word, toNat_append_eq_add, BitVec.ofNat_eq_ofNat, BitVec.toNat_ofNat, BitVec.toNat_ofBool]
  omega

/-- ERR is the OR of the ERRCODE bits (R25). -/
theorem err_toNat (s : State) : s.err.toNat = if s.errcode = .none then 0 else 1 := by
  unfold State.err
  cases s.errcode with
  | _ => rfl

/-- BUSY is 1 exactly in the phase BUSY (R25, R39). -/
theorem busy_toNat (s : State) : s.busy.toNat = if s.phase = .busy then 1 else 0 := by
  unfold State.busy
  cases s.phase with
  | _ => rfl

theorem statusWord_toNat (s : State) :
    s.statusWord.toNat = s.errcode.number.toNat * 2 ^ 8 + s.overrun.toNat * 2 ^ 3 +
      (if s.errcode = .none then 0 else 2 ^ 2) + s.done.toNat * 2 + (if s.phase = .busy then 1 else 0) := by
  have herr : (if s.errcode = .none then 0 else 2 ^ 2) = s.err.toNat * 2 ^ 2 := by
    rw [err_toNat]
    split
    · rfl
    · rfl
  rw [herr, ← busy_toNat]
  simp only [State.statusWord, toNat_append_eq_add, BitVec.ofNat_eq_ofNat, BitVec.toNat_ofNat, BitVec.toNat_ofBool]
  omega

/-- RD_LIMB answers the selected limb, 0 beyond the register's length (R32). -/
theorem rdLimb_toNat (s : State) : s.rdLimb.toNat = ((s.V s.rdSel).getD s.rdIdx.toNat 0).toNat := by
  rw [State.rdLimb, List.getD_eq_getElem?_getD]
  cases (s.V s.rdSel)[s.rdIdx.toNat]? with
  | none => rfl
  | some l => exact BitVec.toNat_setWidth_of_le (by decide)

/-- OUT_CHAR answers the selected byte, 0 beyond OUT_LEN (R35). -/
theorem outChar_toNat (s : State) : s.outChar.toNat = (s.outbuf.getD s.outIdx.toNat 0).toNat := by
  rw [State.outChar, List.getD_eq_getElem?_getD]
  cases s.outbuf[s.outIdx.toNat]? with
  | none => rfl
  | some b => exact BitVec.toNat_setWidth_of_le (by decide)

/-- A register's length is below 2^32 (R6, R20). -/
theorem length_V_lt {s : State} (h : s.Sound) (i : VReg) : (s.V i).length < 2 ^ 32 := by
  obtain ⟨-, -, hlen⟩ := (canonicalBig_iff _ _).1 (sound_V h i)
  exact lt_of_le_of_lt hlen (maxLimbs_lt_of_wf h.params_wf)

/-! ## What the host reads (R24 to R37, R65, R68) -/

/-- The registers of R68 that are exact at all times. -/
theorem exact_offset : ∀ off ∈ [0x00, 0x08, 0x10, 0x18, 0x20, 0x28, 0x38, 0x40, 0x60],
    accessOk off 8 = true ∧ drawnWhileBusy (regAt off) = false := by decide

/-- Settles O48: none of these registers is drawn while BUSY, so each is read by its fields. -/
theorem exactRegistersReadTheirFields : Obligations.ExactRegistersReadTheirFields := by
  intro s off rest hp hrst hin hoff
  obtain ⟨hok, hexact⟩ := exact_offset off hoff
  refine ⟨s.readReg (regAt off), step_read hrst hin hok (by rw [hexact, Bool.and_false]), ?_, ?_, ?_, ?_, ?_, ?_, ?_,
    ?_, ?_⟩
  · rintro rfl; exact cfg0Word_toNat hp
  · rintro rfl; exact cfg1Word_toNat hp
  · rintro rfl; exact ctrlWord_toNat s.ctrl
  · rintro rfl; exact statusWord_toNat s
  · rintro rfl; rfl
  · rintro rfl; rfl
  · rintro rfl; exact BitVec.toNat_setWidth_of_le (by decide)
  · rintro rfl; exact BitVec.toNat_setWidth_of_le (by decide)
  · rintro rfl; rfl

/-- The offsets of R61 end below 0x70 (R65). -/
theorem regAt_of_ge {off : Nat} (h : 0x70 ≤ off) : regAt off = .reserved := by
  unfold regAt
  split
  case h_15 => rfl
  all_goals omega

/-- OUTBUF's length is a 64-bit number (R5, R6, R33). -/
theorem State.Inv.length_outbuf_lt {s : State} (h : s.Inv) : s.outbuf.length < 2 ^ 64 := by
  have hmax := maxLimbs_lt_of_wf h.params_wf
  have hdigits := limbDigits_le_of_wf h.params_wf
  calc s.outbuf.length ≤ s.params.limbDigits * s.params.maxLimbs := h.outbuf_fits
    _ ≤ 9 * 2 ^ 32 := Nat.mul_le_mul hdigits hmax.le
    _ < 2 ^ 64 := by decide

/-- Settles O49: an idle engine draws nothing, and the invariant bounds both lengths. -/
theorem idleResultRegistersReadTheirValues : Obligations.IdleResultRegistersReadTheirValues := by
  intro s off rest hinv hrst hin
  constructor
  · intro hidle hoff
    have hok : accessOk off 8 = true :=
      (by decide : ∀ off ∈ [0x30, 0x48, 0x50, 0x58, 0x68], accessOk off 8 = true) off hoff
    have hbusy : s.busy = false := by rw [State.busy, hidle]; rfl
    refine ⟨s.readReg (regAt off), step_read hrst hin hok (by rw [hbusy, Bool.false_and]), ?_, ?_, ?_, ?_, ?_⟩
    · rintro rfl; rfl
    · rintro rfl
      have hlen := length_V_lt hinv.sound s.rdSel
      exact Nat.mod_eq_of_lt (by omega)
    · rintro rfl; exact rdLimb_toNat s
    · rintro rfl; exact Nat.mod_eq_of_lt hinv.length_outbuf_lt
    · rintro rfl; exact outChar_toNat s
  · intro halign hlow hhigh
    have hres := regAt_of_ge hlow
    have hread := step_read hrst hin ((accessOk_iff off 8).2 ⟨rfl, halign, hhigh⟩)
      (by rw [hres]; exact Bool.and_false _)
    rw [hres] at hread
    exact hread

/-! ## What the host writes (R24 to R34) -/

/-- Settles O51: the written bits, each field as a number. -/
theorem plainRegisterWritesStoreTheirFields : Obligations.PlainRegisterWritesStoreTheirFields := by
  intro s w rest hrst
  refine ⟨fun hin => ⟨ctrlOfWord w, step_write hrst hin rfl, ?_, toNat_getLsbD w 1, ?_⟩,
    fun hin => step_write hrst hin rfl,
    fun hin => ⟨w.extractLsb' 0 4, step_write hrst hin rfl, ?_⟩,
    fun hin => ⟨w.extractLsb' 0 32, step_write hrst hin rfl, ?_⟩,
    fun hin => step_write hrst hin rfl⟩
  · rw [ctrlOfWord, toNat_getLsbD, pow_zero, Nat.div_one]
  · have hw := w.isLt
    rw [ctrlOfWord, toNat_extractLsb']
    omega
  · exact (toNat_extractLsb' w 0 4).trans (by rw [pow_zero, Nat.div_one]; rfl)
  · exact (toNat_extractLsb' w 0 32).trans (by rw [pow_zero, Nat.div_one])

/-- A write of 1 clears a flag, a write of 0 keeps it (R25). -/
theorem and_not_getLsbD (b : Bool) (w : Word) (i : Nat) :
    (b && !w.getLsbD i) = if w.toNat / 2 ^ i % 2 = 1 then false else b := by
  rw [← toNat_getLsbD]
  cases w.getLsbD i with
  | true => exact Bool.and_false b
  | false => exact Bool.and_true b

/-- Settles O52: the acknowledgement, its two bits read as numbers. -/
theorem statusWriteClearsOnlyDoneAndOverrun : Obligations.StatusWriteClearsOnlyDoneAndOverrun := by
  intro s w rest hrst hin
  have hdone := and_not_getLsbD s.done w 1
  have hoverrun := and_not_getLsbD s.overrun w 3
  calc step s = .next { s with
          inbox := rest, port := .done, done := s.done && !w.getLsbD 1, overrun := s.overrun && !w.getLsbD 3 } :=
        step_write hrst hin rfl
    _ = _ := by rw [hdone, hoverrun]; rfl

end Sys2Proof.Machine
end

section
/-!
PROOF. The reset state of legal parameters meets the invariant (R20, R21, R231).
-/

namespace Sys2Proof.Machine

open Sys2Proof.Config

theorem resetWith_inv {p : Params} (hp : p.wf = true) : (State.resetWith p).Inv where
  params_wf := hp
  canonical := canonical_resetWith p
  outbuf_fits := Nat.zero_le _
  outbuf_digits := fun _ hc => absurd hc List.not_mem_nil
  busy_status := fun hb => by cases hb
  work_sized := by simp [State.resetWith, Mat.sized, Mat.fill]
  held_in_reset := fun hr => by cases hr

/-- Settles O58: legal parameters are all the reset state needs. -/
theorem resetStateMeetsTheInvariant : Obligations.ResetStateMeetsTheInvariant :=
  ⟨fun _ hp => resetWith_inv hp, resetWith_inv (by decide)⟩

end Sys2Proof.Machine
end

section
/-!
PROOF. What a step leaves alone: the latches of a running command (R72), the irq output (R38, R206), and the results and
working registers, which change only by a completion or an asserted reset (R21, R23, R28, R33, R39).
-/

namespace Sys2Proof.Machine

/-! ## The engine's step (R92) -/

theorem engineEnabled_iff (s : State) : s.engineEnabled = true ↔ s.phase = .busy ∧ s.rst = false := by
  simp [State.engineEnabled]

/-- The enabled engine finishes its command, within the writes of the command its latched word spells (R85, R92). -/
theorem runEngine_enabled {s t : State} (hen : s.engineEnabled = true) (h : s.runEngine = .next t) :
    ∃ (w : State) (c : ErrCode), t = w.finish c ∧ (w = s ∨ ∃ i, decode s.lcmd = .ok i ∧ s.Writes i w) := by
  rcases runEngine_cases h with ⟨hdis, -⟩ | ⟨-, -, rfl⟩ | ⟨-, i, hi, hexec⟩
  · cases hdis.symm.trans hen
  · exact ⟨s, .illegalCmd, rfl, .inl rfl⟩
  · obtain ⟨w, c, hfin, hw⟩ := finishesWithin_exec i s
    cases hexec.symm.trans hfin
    exact ⟨w, c, rfl, .inr ⟨i, hi, hw⟩⟩

/-- A completion ends idle with DONE, and does not touch CTRL (R92). -/
theorem runEngine_enabled_status {s t : State} (hen : s.engineEnabled = true) (h : s.runEngine = .next t) :
    t.phase = .idle ∧ t.done = true ∧ t.ctrl = s.ctrl := by
  obtain ⟨w, c, rfl, rfl | ⟨i, -, hw⟩⟩ := runEngine_enabled hen h
  · exact ⟨rfl, rfl, rfl⟩
  · have hctrl : w.ctrl = s.ctrl := by rw [hw.frame]
    exact ⟨rfl, rfl, hctrl⟩

/-! ## The kinds of step (R69) -/

/-- What a step is: a completion, a host write outside reset, an asserted reset, or one that no register sees. -/
inductive StepKind (s t : State) : Prop where
  /-- The engine has the step and is enabled (R92). -/
  | completion (hnext : s.engineNext = true) (hen : s.engineEnabled = true) (hrun : s.popped.runEngine = .next t)
  /-- A host write of the register at a defined offset (R60, R63). -/
  | write (off : Nat) (w : Word) (es : List Event) (hin : s.inbox = .write off 8 w :: es)
      (ht : t = (s.popped.writeReg (regAt off) w).respond .done)
  /-- rst is asserted (R230). -/
  | assertRst (es : List Event) (hin : s.inbox = .assertRst :: es) (ht : t = s.popped.assertReset)
  /-- A host read (R66), a write while rst is asserted (R230), the release of rst, or the turn of an engine that is idle
  or held in reset: only the surroundings may change. -/
  | quiet (ht : t = { s with rst := t.rst, port := t.port, inbox := t.inbox, draws := t.draws })

theorem popped_of_cons {s : State} {e : Event} {es : List Event} (h : s.inbox = e :: es) :
    s.popped = s.withInbox es := by
  rw [State.popped, h, List.tail_cons]

theorem popped_of_nil {s : State} (h : s.inbox = []) : s.popped = s := by
  rw [State.popped, h, List.tail_nil, ← h]
  rfl

/-- The engine's turn is a completion or changes nothing. -/
theorem stepKind_of_runEngine {s t : State} (hnext : s.engineNext = true) (h : s.popped.runEngine = .next t) :
    StepKind s t := by
  cases hen : s.engineEnabled with
  | true => exact .completion hnext hen h
  | false =>
    rcases runEngine_cases h with ⟨-, rfl⟩ | ⟨hen', -, -⟩ | ⟨hen', -⟩
    · exact .quiet rfl
    · cases hen.symm.trans hen'
    · cases hen.symm.trans hen'

/-- Every step is of one of the kinds. -/
theorem stepKind_of_step {s t : State} (h : step s = .next t) : StepKind s t := by
  rcases step_cases h with ⟨hin, hrun⟩ | ⟨e, es, hin, hcase⟩
  · rw [← popped_of_nil hin] at hrun
    exact stepKind_of_runEngine (by rw [State.engineNext, hin]) hrun
  · rw [← popped_of_cons hin] at hcase
    rcases hcase with ⟨rfl, hrun⟩ | ⟨off, n, rfl, hread⟩ | ⟨off, n, w, rfl, hwrite⟩ | ⟨rfl, rfl⟩ | ⟨rfl, rfl⟩
    · exact stepKind_of_runEngine (by rw [State.engineNext, hin]) hrun
    · rcases hostRead_cases hread with ⟨-, rfl⟩ | ⟨-, -, -, -, rfl⟩ | ⟨-, -, -, rfl⟩
      · exact .quiet rfl
      · exact .quiet rfl
      · exact .quiet rfl
    · rcases hostWrite_cases hwrite with ⟨-, rfl⟩ | ⟨-, hok, rfl⟩
      · exact .quiet rfl
      · obtain ⟨rfl, -, -⟩ := (accessOk_iff off n).1 hok
        exact .write off w es hin rfl
    · exact .assertRst es hin rfl
    · exact .quiet rfl

/-! ## The latches of a running command (R72) -/

/-- While busy no register write changes what was latched: a CMD write only overruns (R91). -/
theorem writeReg_busy_latches {s : State} (hb : s.phase = .busy) (r : HostReg) (w : Word) :
    (s.writeReg r w).lcmd = s.lcmd ∧ (s.writeReg r w).larg0 = s.larg0 ∧ (s.writeReg r w).lctrl = s.lctrl ∧
      (s.writeReg r w).cmd = s.cmd := by
  cases r with
  | cmd => simp [State.writeReg, hb]
  | _ => exact ⟨rfl, rfl, rfl, rfl⟩

/-- Settles O9: a completion and an asserted reset leave the engine idle, every other step leaves the latches. -/
theorem runningCommandKeepsWhatItLatched : Obligations.RunningCommandKeepsWhatItLatched := by
  intro s t hs h ht
  cases stepKind_of_step h with
  | completion _ hen hrun =>
    obtain ⟨hidle, -, -⟩ := runEngine_enabled_status (s := s.popped) hen hrun
    cases hidle.symm.trans ht
  | quiet ht' => rw [ht']; exact ⟨rfl, rfl, rfl, rfl⟩
  | write off w _ _ ht' => subst ht'; exact writeReg_busy_latches (s := s.popped) hs (regAt off) w
  | assertRst _ _ ht' => subst ht'; cases ht

/-! ## The irq output (R38, R206) -/

/-- irq is bit 1 of STATUS and bit 0 of CTRL, as the host reads them (R24, R25, R38). -/
theorem irq_eq_words (s : State) : s.irq = (s.statusWord.getLsbD 1 && s.ctrl.word.getLsbD 0) := by
  have hdone : s.statusWord.getLsbD 1 = s.done := by
    simp only [State.statusWord, BitVec.getLsbD_append]
    simp
  have hen : s.ctrl.word.getLsbD 0 = s.ctrl.irqEn := by
    simp only [Ctrl.word, BitVec.getLsbD_append]
    simp
  rw [hdone, hen]
  rfl

theorem writeReg_ctrl_irq (s : State) (w : Word) : (s.writeReg .ctrl w).irq = (s.done && w.getLsbD 0) := rfl

theorem writeReg_status_irq (s : State) (w : Word) : (s.writeReg .status w).irq = (s.irq && !w.getLsbD 1) :=
  Bool.and_right_comm _ _ _

theorem writeReg_cmd_irq (s : State) (w : Word) : (s.writeReg .cmd w).irq = (s.irq && decide (s.phase = .busy)) := by
  unfold State.writeReg
  cases s.phase with
  | idle => exact (Bool.and_false _).symm
  | busy => exact (Bool.and_true _).symm

/-- The only register write that raises irq sets IRQ_EN while DONE is 1 (R206). -/
theorem writeReg_irq_rises {s : State} {r : HostReg} {w : Word} (hs : s.irq = false)
    (ht : (s.writeReg r w).irq = true) : r = .ctrl ∧ s.done = true ∧ w.getLsbD 0 = true := by
  cases r with
  | ctrl => exact ⟨rfl, (Bool.and_eq_true _ _).mp ht⟩
  | status => rw [writeReg_status_irq, hs] at ht; cases ht
  | cmd => rw [writeReg_cmd_irq, hs] at ht; cases ht
  | _ => cases hs.symm.trans ht

/-- The register writes that lower irq clear DONE, clear IRQ_EN, or issue a command that is accepted (R206). -/
theorem writeReg_irq_falls {s : State} {r : HostReg} {w : Word} (hs : s.irq = true)
    (ht : (s.writeReg r w).irq = false) :
    (r = .status ∧ w.getLsbD 1 = true) ∨ (r = .ctrl ∧ w.getLsbD 0 = false) ∨ (r = .cmd ∧ s.phase = .idle) := by
  cases r with
  | ctrl =>
    obtain ⟨hdone, -⟩ := (Bool.and_eq_true _ _).mp hs
    rw [writeReg_ctrl_irq, show s.done = true from hdone, Bool.true_and] at ht
    exact .inr (.inl ⟨rfl, ht⟩)
  | status =>
    rw [writeReg_status_irq, hs, Bool.true_and] at ht
    exact .inl ⟨rfl, by simpa using ht⟩
  | cmd =>
    rw [writeReg_cmd_irq, hs, Bool.true_and] at ht
    cases hp : s.phase with
    | idle => exact .inr (.inr ⟨rfl, rfl⟩)
    | busy => rw [hp] at ht; cases ht
  | _ => cases hs.symm.trans ht

/-- The offset of a named register (R61); the reserved offsets begin at 0x70 (R65). -/
def HostReg.offset : HostReg → Nat
  | .cfg0 => 0x00
  | .cfg1 => 0x08
  | .ctrl => 0x10
  | .status => 0x18
  | .arg0 => 0x20
  | .cmd => 0x28
  | .result => 0x30
  | .rdSel => 0x38
  | .rdIdx => 0x40
  | .rdLen => 0x48
  | .rdLimb => 0x50
  | .outLen => 0x58
  | .outIdx => 0x60
  | .outChar => 0x68
  | .reserved => 0x70

/-- A named register stands at one offset only (R61). -/
theorem eq_offset_of_regAt {off : Nat} {r : HostReg} (h : regAt off = r) (hr : r ≠ .reserved) : off = r.offset := by
  subst h
  unfold regAt at hr ⊢
  split at hr
  case h_15 => exact absurd rfl hr
  all_goals rfl

/-- irq rises at a completion with IRQ_EN, or by a CTRL write that sets IRQ_EN while DONE is 1 (R206). -/
theorem step_irq_rises {s t : State} (h : step s = .next t) (hs : s.irq = false) (ht : t.irq = true) :
    (s.phase = .busy ∧ t.phase = .idle ∧ s.ctrl.irqEn = true) ∨
      (s.done = true ∧ ∃ w rest, s.inbox = .write 0x10 8 w :: rest ∧ w.getLsbD 0 = true) := by
  cases stepKind_of_step h with
  | completion _ hen hrun =>
    obtain ⟨hidle, -, hctrl⟩ := runEngine_enabled_status (s := s.popped) hen hrun
    obtain ⟨-, hirqEn⟩ := (Bool.and_eq_true _ _).mp ht
    rw [hctrl] at hirqEn
    obtain ⟨hbusy, -⟩ := (engineEnabled_iff s).1 hen
    exact .inl ⟨hbusy, hidle, hirqEn⟩
  | quiet ht' => rw [ht'] at ht; cases hs.symm.trans ht
  | write off w es hin ht' =>
    subst ht'
    obtain ⟨hreg, hdone, hbit⟩ := writeReg_irq_rises (s := s.popped) hs ht
    cases eq_offset_of_regAt hreg (by decide)
    exact .inr ⟨hdone, w, es, hin, hbit⟩
  | assertRst _ _ ht' => subst ht'; cases ht

/-- irq falls where the host clears DONE or IRQ_EN or issues a command that is accepted, and at reset (R206). -/
theorem step_irq_falls {s t : State} (h : step s = .next t) (hs : s.irq = true) (ht : t.irq = false) :
    ∃ e rest, s.inbox = e :: rest ∧
      ((∃ w, e = .write 0x18 8 w ∧ w.getLsbD 1 = true) ∨ (∃ w, e = .write 0x10 8 w ∧ w.getLsbD 0 = false) ∨
        (∃ w, e = .write 0x28 8 w ∧ s.phase = .idle) ∨ e = .assertRst) := by
  cases stepKind_of_step h with
  | completion _ hen hrun =>
    obtain ⟨-, hdone, hctrl⟩ := runEngine_enabled_status (s := s.popped) hen hrun
    obtain ⟨-, hirqEn⟩ := (Bool.and_eq_true _ _).mp hs
    have hup : t.irq = true := (Bool.and_eq_true _ _).mpr ⟨hdone, (congrArg Ctrl.irqEn hctrl).trans hirqEn⟩
    cases ht.symm.trans hup
  | quiet ht' => rw [ht'] at ht; cases hs.symm.trans ht
  | write off w es hin ht' =>
    subst ht'
    refine ⟨_, es, hin, ?_⟩
    rcases writeReg_irq_falls (s := s.popped) hs ht with ⟨hreg, hbit⟩ | ⟨hreg, hbit⟩ | ⟨hreg, hidle⟩
    · cases eq_offset_of_regAt hreg (by decide)
      exact .inl ⟨w, rfl, hbit⟩
    · cases eq_offset_of_regAt hreg (by decide)
      exact .inr (.inl ⟨w, rfl, hbit⟩)
    · cases eq_offset_of_regAt hreg (by decide)
      exact .inr (.inr (.inl ⟨w, rfl, hidle⟩))
  | assertRst es hin _ => exact ⟨_, es, hin, .inr (.inr (.inr rfl))⟩

/-- Settles O53: the level from the two words the host reads, the changes from the kinds of step. -/
theorem irqIsDoneAndIrqEnAndChangesOnlyAsStated : Obligations.IrqIsDoneAndIrqEnAndChangesOnlyAsStated :=
  ⟨irq_eq_words, fun _ _ => step_irq_rises, fun _ _ => step_irq_falls⟩

/-! ## Results and working registers (R21, R23, R28, R33, R39) -/

/-- The results and the working registers are as they were. -/
structure SameResults (s t : State) : Prop where
  /-- V0 to V15 (R20). -/
  v : t.v = s.v
  /-- RESULT (R28). -/
  result : t.result = s.result
  /-- OUTBUF and OUT_LEN (R33). -/
  outbuf : t.outbuf = s.outbuf
  /-- ACC, BASE, E and the scratch (R39). -/
  work : t.work = s.work

/-- No register of the window is a path to a result or a working register (R21, R23, R39). -/
theorem writeReg_sameResults (s : State) (r : HostReg) (w : Word) : SameResults s (s.writeReg r w) := by
  cases r with
  | cmd =>
    unfold State.writeReg
    cases s.phase with
    | _ => exact ⟨rfl, rfl, rfl, rfl⟩
  | _ => exact ⟨rfl, rfl, rfl, rfl⟩

/-- Only a completion and an asserted reset change results or working registers. -/
theorem step_sameResults {s t : State} (h : step s = .next t) :
    SameResults s t ∨ (s.engineNext = true ∧ s.engineEnabled = true ∧ s.popped.runEngine = .next t) ∨
      s.inbox.head? = some .assertRst := by
  cases stepKind_of_step h with
  | completion hnext hen hrun => exact .inr (.inl ⟨hnext, hen, hrun⟩)
  | quiet ht => rw [ht]; exact .inl ⟨rfl, rfl, rfl, rfl⟩
  | write off w _ _ ht =>
    subst ht
    have hsame := writeReg_sameResults s.popped (regAt off) w
    exact .inl ⟨hsame.v, hsame.result, hsame.outbuf, hsame.work⟩
  | assertRst _ hin _ => exact .inr (.inr (by rw [hin]; rfl))

/-- Settles O54: a changed result excludes every step but a completion and an asserted reset. -/
theorem onlyCompletionOrResetChangesResults : Obligations.OnlyCompletionOrResetChangesResults := by
  intro s t h hchange
  rcases step_sameResults h with hsame | ⟨hnext, hen, -⟩ | hreset
  · rcases hchange with hv | hresult | houtbuf
    · exact absurd hsame.v hv
    · exact absurd hsame.result hresult
    · exact absurd hsame.outbuf houtbuf
  · exact .inl ⟨hnext, (engineEnabled_iff s).1 hen⟩
  · exact .inr hreset

/-- Settles O55: a completion that changes the working registers is one of a command that uses the engine. -/
theorem engineRegistersChangeOnlyInMpowFibOrReset : Obligations.EngineRegistersChangeOnlyInMpowFibOrReset := by
  intro s t h hchange
  rcases step_sameResults h with hsame | ⟨hnext, hen, hrun⟩ | hreset
  · exact absurd hsame.work hchange
  · obtain ⟨hbusy, hrst⟩ := (engineEnabled_iff s).1 hen
    obtain ⟨w, c, rfl, rfl | ⟨i, hi, hw⟩⟩ := runEngine_enabled (s := s.popped) hen hrun
    · exact absurd rfl hchange
    · refine .inl ⟨hnext, hbusy, hrst, ⟨i, hi, ?_⟩, rfl, rfl⟩
      by_contra hunused
      obtain ⟨hwork, -⟩ := hw.work (Bool.eq_false_of_not_eq_true hunused)
      exact hchange hwork
  · exact .inr hreset

end Sys2Proof.Machine
end

section
/-!
PROOF. Host accesses outside reset (20_memory.md): which are answered (R63), that a read only answers (R66), which reads
are drawn while BUSY (R68), which writes are ignored (R65, R66); and the engine's turn on a decoded command (R92).
-/

namespace Sys2Proof.Machine

/-! ## The next step, by who has it (R69) -/

theorem step_of_read {s : State} {off n : Nat} {rest : List Event} (hin : s.inbox = .read off n :: rest) :
    step s = (s.withInbox rest).hostRead off n := by
  unfold step
  rw [hin]

theorem step_of_write {s : State} {off n : Nat} {w : Word} {rest : List Event}
    (hin : s.inbox = .write off n w :: rest) : step s = (s.withInbox rest).hostWrite off n w := by
  unfold step
  rw [hin]

theorem step_of_engineNext {s : State} (hnext : s.engineNext = true) : step s = s.popped.runEngine := by
  unfold State.engineNext at hnext
  split at hnext
  case h_1 hin => rw [popped_of_nil hin]; unfold step; rw [hin]
  case h_2 hin => rw [popped_of_cons hin]; unfold step; rw [hin]
  all_goals cases hnext

/-! ## The host port's answers outside reset (R63, R68) -/

theorem busy_iff (s : State) : s.busy = true ↔ s.phase = .busy := decide_eq_true_iff

theorem accessOk_eq_false_iff (off n : Nat) : accessOk off n = false ↔ ¬(n = 8 ∧ off % 8 = 0 ∧ off < 0x100) := by
  rw [← accessOk_iff, Bool.not_eq_true]

theorem hostRead_undefined {s : State} {off n : Nat} (hrst : s.rst = false) (hbad : accessOk off n = false) :
    s.hostRead off n = .fault (.busError off n) := by
  simp [State.hostRead, hrst, hbad]

theorem hostWrite_undefined {s : State} {off n : Nat} (w : Word) (hrst : s.rst = false)
    (hbad : accessOk off n = false) : s.hostWrite off n w = .fault (.busError off n) := by
  simp [State.hostWrite, hrst, hbad]

/-- A defined read whose answer is drawn; `step_read` is the exact one. -/
theorem step_read_drawn {s : State} {off : Nat} {rest : List Event} (hrst : s.rst = false)
    (hin : s.inbox = .read off 8 :: rest) (hok : accessOk off 8 = true)
    (hdrawn : (s.busy && drawnWhileBusy (regAt off)) = true) :
    step s = .next { s with inbox := rest, port := .data (Config.freeRead s.draws), draws := s.draws + 1 } := by
  have hdrawn' : ((s.withInbox rest).busy && drawnWhileBusy (regAt off)) = true := hdrawn
  rw [step_of_read hin, State.hostRead, withInbox_rst, hrst, hok, hdrawn']
  rfl

/-- Settles O45: an undefined access faults, a defined read answers with a drawn or an exact value, a defined write is
done. -/
theorem onlyAlignedEightByteAccessesAreDefined : Obligations.OnlyAlignedEightByteAccessesAreDefined := by
  intro s off n w rest hrst
  constructor
  · intro hbad
    rw [← accessOk_eq_false_iff] at hbad
    exact ⟨fun hin => (step_of_read hin).trans (hostRead_undefined hrst hbad),
      fun hin => (step_of_write hin).trans (hostWrite_undefined w hrst hbad)⟩
  · intro hdef
    have hok := (accessOk_iff off n).2 hdef
    obtain ⟨rfl, -, -⟩ := hdef
    refine ⟨fun hin => ?_, fun hin => ⟨_, step_write hrst hin hok, rfl⟩⟩
    cases hdrawn : s.busy && drawnWhileBusy (regAt off) with
    | true => exact ⟨_, _, step_read_drawn hrst hin hok hdrawn, rfl⟩
    | false => exact ⟨_, _, step_read hrst hin hok hdrawn, rfl⟩

/-- Settles O46: of the three kinds of read only the drawn one moves the draw counter, and it needs a busy engine
outside reset. -/
theorem hostReadsHaveNoSideEffect : Obligations.HostReadsHaveNoSideEffect := by
  intro s t off n rest hin h
  rw [step_of_read hin] at h
  rcases hostRead_cases h with ⟨-, rfl⟩ | ⟨hrst, -, hbusy, -, rfl⟩ | ⟨-, -, -, rfl⟩
  · exact ⟨rfl, fun _ => rfl⟩
  · refine ⟨rfl, ?_⟩
    rintro (hidle | hreset)
    · cases hidle.symm.trans ((busy_iff s).1 hbusy)
    · cases hreset.symm.trans hrst
  · exact ⟨rfl, fun _ => rfl⟩

/-- The registers of R68 whose reads are free while BUSY. -/
theorem drawn_offset : ∀ off ∈ [0x30, 0x48, 0x50, 0x58, 0x68],
    accessOk off 8 = true ∧ drawnWhileBusy (regAt off) = true := by decide

/-- Settles O47: the first list of offsets is drawn while BUSY, the second never. -/
theorem readsWhileBusyAreFreeOnlyForResults : Obligations.ReadsWhileBusyAreFreeOnlyForResults := by
  intro s off rest hrst hin
  constructor
  · intro hbusy hoff
    obtain ⟨hok, hdrawn⟩ := drawn_offset off hoff
    exact step_read_drawn hrst hin hok (by rw [(busy_iff s).2 hbusy, hdrawn]; rfl)
  · intro hoff
    obtain ⟨hok, hexact⟩ := exact_offset off hoff
    exact step_read hrst hin hok (by rw [hexact, Bool.and_false])

/-! ## The engine's turn (R86, R92) -/

theorem runEngine_of_decode {s : State} {i : Instr} (hen : s.engineEnabled = true) (hi : decode s.lcmd = .ok i) :
    s.runEngine = exec i s := by
  rw [State.runEngine, if_pos hen, State.fetch, hi]

/-- Settles O6: taking the event changes neither the phase, nor rst, nor LCMD. -/
theorem stepCompletesTheDecodedCommand : Obligations.StepCompletesTheDecodedCommand := by
  intro s i hnext hbusy hrst hi
  have hen : s.popped.engineEnabled = true := (engineEnabled_iff s.popped).2 ⟨hbusy, hrst⟩
  rw [step_of_engineNext hnext, runEngine_of_decode hen hi]

/-! ## Ignored writes (R65, R66) -/

/-- The registers that ignore writes: the read-only ones of R66, and the reserved offsets of R65. -/
def readOnlyRegs : List HostReg := [.cfg0, .cfg1, .result, .rdLen, .rdLimb, .outLen, .outChar, .reserved]

theorem writeReg_readOnly {r : HostReg} (h : r ∈ readOnlyRegs) (s : State) (w : Word) : s.writeReg r w = s := by
  cases r with
  | ctrl | status | arg0 | cmd | rdSel | rdIdx | outIdx => exact absurd h (by decide)
  | _ => rfl

/-- The offsets of R61 that R66 names as read-only. -/
theorem readOnly_offset : ∀ off ∈ [0x00, 0x08, 0x30, 0x48, 0x50, 0x58, 0x68],
    accessOk off 8 = true ∧ regAt off ∈ readOnlyRegs := by decide

/-- A defined write of a register that ignores it only gets its answer. -/
theorem step_write_readOnly {s : State} {off : Nat} {w : Word} {rest : List Event} (hrst : s.rst = false)
    (hin : s.inbox = .write off 8 w :: rest) (hok : accessOk off 8 = true) (hreg : regAt off ∈ readOnlyRegs) :
    step s = .next { s with inbox := rest, port := .done } := by
  rw [step_write hrst hin hok, writeReg_readOnly hreg]
  rfl

/-- Settles O50: the listed offsets name read-only registers, those from 0x70 on are reserved. -/
theorem writesToReadOnlyAndReservedOffsetsAreIgnored : Obligations.WritesToReadOnlyAndReservedOffsetsAreIgnored := by
  intro s off w rest hrst hin hoff
  rcases hoff with hlisted | ⟨halign, hlow, hhigh⟩
  · obtain ⟨hok, hreg⟩ := readOnly_offset off hlisted
    exact step_write_readOnly hrst hin hok hreg
  · have hreg : regAt off ∈ readOnlyRegs := by rw [regAt_of_ge hlow]; decide
    exact step_write_readOnly hrst hin ((accessOk_iff off 8).2 ⟨rfl, halign, hhigh⟩) hreg

end Sys2Proof.Machine
end

section
/-!
PROOF. Which words are commands (R81 to R86): encoding and decoding, the mask and match of a row of the opcode table
(R84), and the legal values as numbers (R85).
-/

namespace Sys2Proof

/-! ## Decode and encode are inverse (R84, R86, R87) -/

/-- Settles O1: a well-formed command's own word is one of the words that decode to it. -/
theorem decodeOfEncodedCommandIsThatCommand : Obligations.DecodeOfEncodedCommandIsThatCommand :=
  fun i hwf => (decode_eq_ok_iff (encode i) i).2 ⟨hwf, rfl⟩

/-- Settles O2: the command's own word is the only word that decodes to it. -/
theorem decodedWordIsTheCommandsEncoding : Obligations.DecodedWordIsTheCommandsEncoding := by
  intro w i h
  obtain ⟨hwf, hw⟩ := (decode_eq_ok_iff w i).1 h
  exact ⟨hwf, hw.symm⟩

/-- Settles O5: each command is well formed, and the word is its encoding. -/
theorem sampleWordsDecode : Obligations.SampleWordsDecode := by
  unfold Obligations.SampleWordsDecode
  simp only [decode_eq_ok_iff]
  decide

/-! ## The words of one row of the table (R84, R86) -/

theorem opcode_command (o : Opcode) (rd rs1 rs2 : BitVec 4) : (o.command rd rs1 rs2).opcode = o := by
  cases o with
  | _ => rfl

theorem opcodeOf_eq_some_iff (n : BitVec 8) (o : Opcode) : opcodeOf n = some o ↔ n = o.number :=
  ⟨fun h => (number_of_opcodeOf h).symm, fun h => h ▸ opcodeOf_number o⟩

/-- A word spells a command of the row `o` exactly when each of its six fields is legal there (R86). -/
theorem exists_decode_opcode_iff (w : Word) (o : Opcode) :
    (∃ i, decode w = .ok i ∧ i.opcode = o) ↔
      fieldHigh w = 0 ∧ fieldReserved w = 0 ∧ fieldOp w = o.number ∧ fieldProblem o.kindRd (fieldRd w) = none ∧
        fieldProblem o.kindRs1 (fieldRs1 w) = none ∧ fieldProblem o.kindRs2 (fieldRs2 w) = none := by
  simp only [decode_eq_ok_iff_fields, opcodeOf_eq_some_iff]
  rw [← firstFieldProblem_eq_none_iff]
  constructor
  · rintro ⟨i, ⟨hhigh, hres, o', hop, hf, rfl⟩, rfl⟩
    rw [opcode_command]
    exact ⟨hhigh, hres, hop, hf⟩
  · rintro ⟨hhigh, hres, hop, hf⟩
    exact ⟨_, ⟨hhigh, hres, o, hop, hf, rfl⟩, opcode_command ..⟩

/-! ## Mask and match (R84) -/

/-- A word is its six fields (R80, R81). -/
theorem word_eq_iff_fields (w x : Word) :
    w = x ↔ fieldHigh w = fieldHigh x ∧ fieldReserved w = fieldReserved x ∧ fieldOp w = fieldOp x ∧
      fieldRd w = fieldRd x ∧ fieldRs1 w = fieldRs1 x ∧ fieldRs2 w = fieldRs2 x := by
  constructor
  · rintro rfl
    exact ⟨rfl, rfl, rfl, rfl, rfl, rfl⟩
  · simp only [← BitVec.toNat_inj, fieldHigh_toNat, fieldReserved_toNat, fieldOp_toNat, fieldRd_toNat,
      fieldRs1_toNat, fieldRs2_toNat]
    have hw := w.isLt
    have hx := x.isLt
    omega

/-- The bits of an operand field that its kind fixes to 0 (R82, R84). -/
def FieldKind.mask : FieldKind → BitVec 4
  | .v => 0x0
  | .m => 0xC
  | .unused => 0xF

theorem fieldProblem_eq_none_iff_mask (k : FieldKind) (f : BitVec 4) :
    fieldProblem k f = none ↔ f &&& k.mask = 0 := by
  cases k with
  | v => simp [fieldProblem, FieldKind.mask]
  | m => revert f; decide
  | unused => revert f; decide

/-- A row's mask keeps the reserved bits, the opcode, and of each operand field what its kind fixes. -/
theorem fields_tableMask (o : Opcode) :
    fieldHigh o.tableMask = .allOnes 32 ∧ fieldReserved o.tableMask = .allOnes 12 ∧
      fieldOp o.tableMask = .allOnes 8 ∧ fieldRd o.tableMask = o.kindRd.mask ∧
      fieldRs1 o.tableMask = o.kindRs1.mask ∧ fieldRs2 o.tableMask = o.kindRs2.mask := by
  cases o with
  | _ => exact ⟨rfl, rfl, rfl, rfl, rfl, rfl⟩

/-- A row's match is its opcode, every other bit 0. -/
theorem fields_tableMatch (o : Opcode) :
    fieldHigh o.tableMatch = 0 ∧ fieldReserved o.tableMatch = 0 ∧ fieldOp o.tableMatch = o.number ∧
      fieldRd o.tableMatch = 0 ∧ fieldRs1 o.tableMatch = 0 ∧ fieldRs2 o.tableMatch = 0 := by
  cases o with
  | _ => exact ⟨rfl, rfl, rfl, rfl, rfl, rfl⟩

theorem fields_and (w x : Word) :
    fieldHigh (w &&& x) = fieldHigh w &&& fieldHigh x ∧
      fieldReserved (w &&& x) = fieldReserved w &&& fieldReserved x ∧ fieldOp (w &&& x) = fieldOp w &&& fieldOp x ∧
      fieldRd (w &&& x) = fieldRd w &&& fieldRd x ∧ fieldRs1 (w &&& x) = fieldRs1 w &&& fieldRs1 x ∧
      fieldRs2 (w &&& x) = fieldRs2 w &&& fieldRs2 x :=
  ⟨BitVec.extractLsb'_and, BitVec.extractLsb'_and, BitVec.extractLsb'_and, BitVec.extractLsb'_and,
    BitVec.extractLsb'_and, BitVec.extractLsb'_and⟩

/-- Settles O3: mask and match, compared field by field, are the legality of each field in that row. -/
theorem wordSpellsCommandExactlyOnMaskMatch : Obligations.WordSpellsCommandExactlyOnMaskMatch := by
  intro w o
  rw [exists_decode_opcode_iff, word_eq_iff_fields]
  simp only [fields_and, fields_tableMask, fields_tableMatch, fieldProblem_eq_none_iff_mask, BitVec.and_allOnes]

/-! ## The legal words as numbers (R85) -/

/-- The numbers an operand field of this kind may hold (R82). -/
def FieldKind.Allows : FieldKind → Nat → Prop
  | .v, _ => True
  | .m, n => n ≤ 3
  | .unused, n => n = 0

theorem fieldProblem_eq_none_iff_allows (k : FieldKind) (f : BitVec 4) :
    fieldProblem k f = none ↔ k.Allows f.toNat := by
  cases k with
  | v => exact iff_of_true rfl trivial
  | m =>
    rw [fieldProblem_m_iff, mfieldOk, decide_eq_true_iff]
    exact Nat.lt_succ_iff
  | unused =>
    rw [fieldProblem_unused_iff, ← BitVec.toNat_inj]
    rfl

/-- The numbers in the four fields of a word are those of a command of the row `o` (R84). -/
def Opcode.Row (o : Opcode) (op rd rs1 rs2 : Nat) : Prop :=
  op = o.number.toNat ∧ o.kindRd.Allows rd ∧ o.kindRs1.Allows rs1 ∧ o.kindRs2.Allows rs2

theorem high_and_reserved_eq_zero_iff (w : Word) : fieldHigh w = 0 ∧ fieldReserved w = 0 ↔ w.toNat / 2 ^ 20 = 0 := by
  have hw := w.isLt
  simp only [← BitVec.toNat_inj, fieldHigh_toNat, fieldReserved_toNat, BitVec.ofNat_eq_ofNat, BitVec.toNat_ofNat]
  omega

/-- A word is legal exactly when it is below 2^20 and its fields are those of a row (R84, R85). -/
theorem exists_decode_iff_row (w : Word) :
    (∃ i, decode w = .ok i) ↔ w.toNat / 2 ^ 20 = 0 ∧
      ∃ o : Opcode, o.Row (w.toNat % 2 ^ 8) (w.toNat / 2 ^ 8 % 2 ^ 4) (w.toNat / 2 ^ 12 % 2 ^ 4)
        (w.toNat / 2 ^ 16 % 2 ^ 4) := by
  have hopcode : (∃ i, decode w = .ok i) ↔ ∃ o i, decode w = .ok i ∧ i.opcode = o :=
    ⟨fun ⟨i, hi⟩ => ⟨i.opcode, i, hi, rfl⟩, fun ⟨_, i, hi, _⟩ => ⟨i, hi⟩⟩
  simp only [hopcode, exists_decode_opcode_iff, ← and_assoc, high_and_reserved_eq_zero_iff]
  simp only [and_assoc, exists_and_left, Opcode.Row, fieldProblem_eq_none_iff_allows, ← BitVec.toNat_inj,
    fieldOp_toNat, fieldRd_toNat, fieldRs1_toNat, fieldRs2_toNat]

/-- The rows of the table, grouped by the kinds of their operand fields (R84). -/
theorem exists_row_iff (op rd rs1 rs2 : Nat) :
    (∃ o : Opcode, o.Row op rd rs1 rs2) ↔
      (op = 0x00 ∧ rd = 0 ∧ rs1 = 0 ∧ rs2 = 0) ∨
      (op ∈ [0x01, 0x02, 0x04, 0x30] ∧ rs1 = 0 ∧ rs2 = 0) ∨
      (op = 0x03 ∧ rs2 = 0) ∨
      op ∈ [0x10, 0x11] ∨
      (op = 0x20 ∧ rd ≤ 3 ∧ rs1 ≤ 3 ∧ rs2 ≤ 3) ∨
      (op = 0x21 ∧ rd ≤ 3 ∧ rs1 ≤ 3 ∧ rs2 = 0) ∨
      (op ∈ [0x40, 0x41] ∧ rd = 0 ∧ rs2 = 0) := by
  constructor
  · rintro ⟨o, hop, hrd, hrs1, hrs2⟩
    cases o with
    | nop => exact .inl ⟨hop, hrd, hrs1, hrs2⟩
    | vzero | vconst | vlimbin | fib => exact .inr (.inl ⟨by rw [hop]; decide, hrs1, hrs2⟩)
    | vmov => exact .inr (.inr (.inl ⟨hop, hrs2⟩))
    | vadd | vmul => exact .inr (.inr (.inr (.inl (by rw [hop]; decide))))
    | mmul => exact .inr (.inr (.inr (.inr (.inl ⟨hop, hrd, hrs1, hrs2⟩))))
    | mpow => exact .inr (.inr (.inr (.inr (.inr (.inl ⟨hop, hrd, hrs1, hrs2⟩)))))
    | lowdig | decstr => exact .inr (.inr (.inr (.inr (.inr (.inr ⟨by rw [hop]; decide, hrd, hrs2⟩)))))
  · simp only [List.mem_cons, List.not_mem_nil, or_false]
    rintro (⟨hop, hrd, hrs1, hrs2⟩ | ⟨hop | hop | hop | hop, hrs1, hrs2⟩ | ⟨hop, hrs2⟩ | (hop | hop) |
      ⟨hop, hrd, hrs1, hrs2⟩ | ⟨hop, hrd, hrs1, hrs2⟩ | ⟨hop | hop, hrd, hrs2⟩)
    · exact ⟨.nop, hop, hrd, hrs1, hrs2⟩
    · exact ⟨.vzero, hop, trivial, hrs1, hrs2⟩
    · exact ⟨.vconst, hop, trivial, hrs1, hrs2⟩
    · exact ⟨.vlimbin, hop, trivial, hrs1, hrs2⟩
    · exact ⟨.fib, hop, trivial, hrs1, hrs2⟩
    · exact ⟨.vmov, hop, trivial, trivial, hrs2⟩
    · exact ⟨.vadd, hop, trivial, trivial, trivial⟩
    · exact ⟨.vmul, hop, trivial, trivial, trivial⟩
    · exact ⟨.mmul, hop, hrd, hrs1, hrs2⟩
    · exact ⟨.mpow, hop, hrd, hrs1, hrs2⟩
    · exact ⟨.lowdig, hop, hrd, trivial, hrs2⟩
    · exact ⟨.decstr, hop, hrd, trivial, hrs2⟩

end Sys2Proof

namespace Sys2Proof.Machine

/-! ## Illegal commands at the engine (R82, R85, R201) -/

/-- The enabled engine completes a word that spells no command with ILLEGAL_CMD (R85). -/
theorem runEngine_of_not_decode {s : State} (hen : s.engineEnabled = true) (hbad : ∀ i, decode s.lcmd ≠ .ok i) :
    s.runEngine = .next (s.finish .illegalCmd) := by
  rw [State.runEngine, if_pos hen, State.fetch]
  cases hd : decode s.lcmd with
  | error e => rfl
  | ok i => exact absurd hd (hbad i)

/-- Settles O4: the legal words are those of the table's rows, and the engine finishes any other with STATUS alone. -/
theorem illegalWordsCompleteWithIllegalCmdAndChangeOnlyStatus :
    Obligations.IllegalWordsCompleteWithIllegalCmdAndChangeOnlyStatus := by
  refine ⟨fun w => (exists_decode_iff_row w).trans (and_congr_right' (exists_row_iff ..)), ?_⟩
  intro s hnext hbusy hrst hbad
  have hen : s.popped.engineEnabled = true := (engineEnabled_iff s.popped).2 ⟨hbusy, hrst⟩
  rw [step_of_engineNext hnext, runEngine_of_not_decode hen hbad]
  rfl

/-- A command that is not well formed, so has an M field above 3, completes with ILLEGAL_CMD (R82, R85). -/
theorem exec_of_not_wf {i : Instr} (h : i.wf = false) (s : State) : exec i s = .next (s.finish .illegalCmd) := by
  cases i with
  | mmul rd rs1 rs2 => exact if_neg (ne_true_of_eq_false h)
  | mpow rd rs1 => exact if_neg (ne_true_of_eq_false h)
  | _ => cases h

/-- Settles O19: one M field above 3 is enough for the command not to be well formed. -/
theorem matrixFieldAboveThreeEndsWithIllegalCmd : Obligations.MatrixFieldAboveThreeEndsWithIllegalCmd := by
  intro d a b s
  constructor
  · intro h
    have hwf : (Instr.mmul d a b).wf = false := by
      simp only [Instr.wf, mfieldOk, Bool.and_eq_false_iff, decide_eq_false_iff_not]
      omega
    exact exec_of_not_wf hwf s
  · intro h
    have hwf : (Instr.mpow d a).wf = false := by
      simp only [Instr.wf, mfieldOk, Bool.and_eq_false_iff, decide_eq_false_iff_not]
      omega
    exact exec_of_not_wf hwf s

end Sys2Proof.Machine
end

section
/-!
PROOF. From issue to completion (R90 to R92): a CMD write in either phase, that a busy engine completes within the
pending events (R240), and what a completion depends on.
-/

namespace Sys2Proof.Machine

/-! ## CMD writes (R90, R91) -/

theorem writeReg_cmd_idle {s : State} (h : s.phase = .idle) (w : Word) : s.writeReg .cmd w = s.accept w := by
  rw [State.writeReg, h]

theorem writeReg_cmd_busy {s : State} (h : s.phase = .busy) (w : Word) : s.writeReg .cmd w = s.overrunSet := by
  rw [State.writeReg, h]

/-- A CMD write outside reset, whatever the phase: offset 0x28 is CMD (R61). -/
theorem step_write_cmd {s : State} {w : Word} {rest : List Event} (hin : s.inbox = .write 0x28 8 w :: rest)
    (hrst : s.rst = false) : step s = .next (((s.withInbox rest).writeReg .cmd w).respond .done) :=
  step_write hrst hin rfl

/-- Settles O7: the write is an acceptance. -/
theorem cmdWriteWhenIdleIsAccepted : Obligations.CmdWriteWhenIdleIsAccepted := by
  intro s w rest hin hrst hidle
  have hidle' : (s.withInbox rest).phase = .idle := hidle
  rw [step_write_cmd hin hrst, writeReg_cmd_idle hidle']
  rfl

/-- Settles O8: the write is an overrun. -/
theorem cmdWriteWhenBusyOnlySetsOverrun : Obligations.CmdWriteWhenBusyOnlySetsOverrun := by
  intro s w rest hin hrst hbusy
  have hbusy' : (s.withInbox rest).phase = .busy := hbusy
  rw [step_write_cmd hin hrst, writeReg_cmd_busy hbusy']
  rfl

/-! ## A busy engine completes (R92, R240) -/

/-- The enabled engine always has a next state, idle with DONE (R92). -/
theorem runEngine_completes {s : State} (hen : s.engineEnabled = true) :
    ∃ t, s.runEngine = .next t ∧ t.phase = .idle ∧ t.done = true := by
  have hnext : ∃ t, s.runEngine = .next t := by
    cases hd : decode s.lcmd with
    | error e => exact ⟨_, runEngine_of_not_decode hen fun i hi => by cases hd.symm.trans hi⟩
    | ok i =>
      obtain ⟨w, c, hexec, -⟩ := finishesWithin_exec i s
      exact ⟨_, (runEngine_of_decode hen hd).trans hexec⟩
  obtain ⟨t, ht⟩ := hnext
  obtain ⟨hidle, hdone, -⟩ := runEngine_enabled_status hen ht
  exact ⟨t, ht, hidle, hdone⟩

/-- A command runs on: the engine is busy and not in reset, and the events `es` are still to come. -/
structure State.Running (s : State) (es : List Event) : Prop where
  busy : s.phase = .busy
  rst : s.rst = false
  inbox : s.inbox = es

/-- The engine's turn completes a running command (R92). -/
theorem State.Running.step_engineNext {s : State} {es : List Event} (h : s.Running es) (hnext : s.engineNext = true) :
    ∃ t, step s = .next t ∧ t.phase = .idle ∧ t.done = true := by
  rw [step_of_engineNext hnext]
  exact runEngine_completes ((engineEnabled_iff s.popped).2 ⟨h.busy, h.rst⟩)

/-- No host read ends a running command (R66). -/
theorem State.Running.hostRead {s : State} {es : List Event} (h : s.Running es) {off n : Nat}
    (hok : accessOk off n = true) : ∃ t, s.hostRead off n = .next t ∧ t.Running es := by
  rw [State.hostRead, h.rst, hok]
  cases s.busy && drawnWhileBusy (regAt off) with
  | true => exact ⟨_, rfl, h.busy, rfl, h.inbox⟩
  | false => exact ⟨_, rfl, h.busy, h.rst, h.inbox⟩

/-- No register write ends a running command, a CMD write included (R91). -/
theorem State.Running.writeReg {s : State} {es : List Event} (h : s.Running es) (r : HostReg) (w : Word) :
    (s.writeReg r w).Running es := by
  cases r with
  | cmd => rw [writeReg_cmd_busy h.busy]; exact ⟨h.busy, h.rst, h.inbox⟩
  | _ => exact ⟨h.busy, h.rst, h.inbox⟩

theorem State.Running.hostWrite {s : State} {es : List Event} (h : s.Running es) {off n : Nat} (w : Word)
    (hok : accessOk off n = true) : ∃ t, s.hostWrite off n w = .next t ∧ t.Running es := by
  have hreg := h.writeReg (regAt off) w
  rw [State.hostWrite, h.rst, hok]
  exact ⟨_, rfl, hreg.busy, hreg.rst, hreg.inbox⟩

/-- One step of a running command, the next event not an asserted reset: completed, or running on (R69, R92). -/
theorem State.Running.step_cons {s : State} {e : Event} {es : List Event} (h : s.Running (e :: es))
    (hdef : e.accessDefined = true) (hkeep : e.keepsRunning = true) :
    ∃ t, step s = .next t ∧ (t.phase = .idle ∧ t.done = true ∨ t.Running es) := by
  have hpop : (s.withInbox es).Running es := ⟨h.busy, h.rst, rfl⟩
  cases e with
  | engine =>
    obtain ⟨t, ht, hdone⟩ := h.step_engineNext (by rw [State.engineNext, h.inbox])
    exact ⟨t, ht, .inl hdone⟩
  | read off n =>
    obtain ⟨t, ht, hrun⟩ := hpop.hostRead hdef
    exact ⟨t, (step_of_read h.inbox).trans ht, .inr hrun⟩
  | write off n w =>
    obtain ⟨t, ht, hrun⟩ := hpop.hostWrite w hdef
    exact ⟨t, (step_of_write h.inbox).trans ht, .inr hrun⟩
  | assertRst => cases hkeep
  | releaseRst =>
    have hstep : step s = .next (s.withInbox es).releaseReset := by unfold step; rw [h.inbox]
    exact ⟨_, hstep, .inr ⟨h.busy, rfl, rfl⟩⟩

/-- A running command completes once its events are taken and the engine has one step more (R240). -/
theorem State.Running.completes {es : List Event} (hes : ∀ e ∈ es, e.accessDefined = true ∧ e.keepsRunning = true) :
    ∀ s : State, s.Running es →
      ∃ k, k ≤ es.length + 1 ∧ ∃ t : State, Sys2Proof.core.run k s = .next t ∧ t.phase = .idle ∧ t.done = true := by
  induction es with
  | nil =>
    intro s h
    obtain ⟨t, hstep, hdone⟩ := h.step_engineNext (by rw [State.engineNext, h.inbox])
    exact ⟨1, Nat.le_refl 1, t, (run_succ_next 0 hstep).trans (run_zero t), hdone⟩
  | cons e es ih =>
    intro s h
    obtain ⟨⟨hdef, hkeep⟩, hes⟩ := List.forall_mem_cons.1 hes
    obtain ⟨t, hstep, hdone | hrun⟩ := h.step_cons hdef hkeep
    · exact ⟨1, Nat.le_add_left 1 _, t, (run_succ_next 0 hstep).trans (run_zero t), hdone⟩
    · obtain ⟨k, hk, u, hu, hdone⟩ := ih hes t hrun
      exact ⟨k + 1, Nat.succ_le_succ hk, u, (run_succ_next k hstep).trans hu, hdone⟩

/-- Settles O10, by induction on the pending events. -/
theorem busyEngineCompletesWithinThePendingEvents : Obligations.BusyEngineCompletesWithinThePendingEvents :=
  fun s hbusy hrst hes => State.Running.completes hes s ⟨hbusy, hrst, rfl⟩

/-! ## What a completion depends on (R92) -/

/-- The states agree on what a command may read: the parameters, the V registers, LARG0 and LCTRL. -/
structure SameOperands (s u : State) : Prop where
  params : s.params = u.params
  v : s.v = u.v
  larg0 : s.larg0 = u.larg0
  lctrl : s.lctrl = u.lctrl

theorem SameOperands.radix {s u : State} (h : SameOperands s u) : s.radix = u.radix :=
  congrArg Config.Params.radix h.params

theorem SameOperands.V {s u : State} (h : SameOperands s u) (i : VReg) : s.V i = u.V i := by
  simp only [State.V, h.v]

theorem SameOperands.M {s u : State} (h : SameOperands s u) (k : MReg) : s.M k = u.M k := by
  simp only [State.M, h.V]

theorem SameOperands.valV {s u : State} (h : SameOperands s u) (i : VReg) : s.valV i = u.valV i := by
  simp only [State.valV, h.radix, h.V]

theorem SameOperands.argLimb {s u : State} (h : SameOperands s u) : s.argLimb = u.argLimb := by
  simp only [State.argLimb, h.radix, h.larg0]

theorem SameOperands.argIndex {s u : State} (h : SameOperands s u) : s.argIndex = u.argIndex := by
  simp only [State.argIndex, h.larg0]

theorem SameOperands.argDigitCount {s u : State} (h : SameOperands s u) : s.argDigitCount = u.argDigitCount := by
  simp only [State.argDigitCount, h.params, h.larg0]

theorem setV_v_congr {s u : State} (h : s.v = u.v) (i : VReg) (L : BigUint) : (s.setV i L).v = (u.setV i L).v := by
  simp only [setV_v, h]

theorem setM_v_congr {s u : State} (h : s.v = u.v) (k : MReg) (R : Mat BigUint) :
    (s.setM k R).v = (u.setM k R).v := by
  simp only [State.setM, setV_v, h]

/-- Two commands complete with the same V registers and the same error code. -/
def CompleteAlike (o o' : Host.Outcome State Fault Refusal) : Prop :=
  ∃ t t' : State, o = .next t ∧ o' = .next t' ∧ t.v = t'.v ∧ t.errcode = t'.errcode

/-- Completions that succeed are alike when their writes are. -/
theorem completeAlike_ok (s u : State) {w w' : State} (h : w.v = w'.v) :
    CompleteAlike (s.complete (.ok w)) (u.complete (.ok w')) :=
  ⟨_, _, rfl, rfl, h, rfl⟩

/-- Two completions that begin with the same check or computation are alike when their rests are; if it raises an error
they are alike already. -/
theorem completeAlike_bind {s u : State} (h : s.v = u.v) {α : Type} (x : Except ErrCode α)
    {f g : α → Except ErrCode State} (hfg : ∀ a, CompleteAlike (s.complete (f a)) (u.complete (g a))) :
    CompleteAlike (s.complete (x >>= f)) (u.complete (x >>= g)) := by
  cases x with
  | ok a => exact hfg a
  | error c => exact ⟨_, _, rfl, rfl, h, rfl⟩

theorem completeAlike_illegal {s u : State} (h : s.v = u.v) : CompleteAlike s.completeIllegal u.completeIllegal :=
  ⟨_, _, rfl, rfl, h, rfl⟩

/-- The common end of VCONST, VLIMBIN, VADD, VMUL and FIB: a capacity check, then the destination. -/
theorem completeAlike_fit_setV {s u : State} (h : s.v = u.v) (p : Config.Params) (x : BigUint) (d : VReg) :
    CompleteAlike (s.complete do let L ← fit p x; return s.setV d L)
      (u.complete do let L ← fit p x; return u.setV d L) :=
  completeAlike_bind h (fit p x) fun L => completeAlike_ok s u (setV_v_congr h d L)

theorem SameOperands.execVlimbin_alike {s u : State} (h : SameOperands s u) (d : VReg) :
    CompleteAlike (execVlimbin d s) (execVlimbin d u) := by
  simp only [execVlimbin, h.argLimb, h.params, h.radix, h.valV]
  exact completeAlike_bind h.v _ fun limb => completeAlike_fit_setV h.v _ _ d

theorem SameOperands.execMmul_alike {s u : State} (h : SameOperands s u) (d a b : MReg) :
    CompleteAlike (execMmul d a b s) (execMmul d a b u) := by
  simp only [execMmul, h.params, h.radix, h.M]
  split
  · exact completeAlike_bind h.v _ fun R => completeAlike_ok s u (setM_v_congr h.v d R)
  · exact completeAlike_illegal h.v

theorem SameOperands.execMpow_alike {s u : State} (h : SameOperands s u) (d a : MReg) :
    CompleteAlike (execMpow d a s) (execMpow d a u) := by
  have hdraw : s.drawWork.v = u.drawWork.v := h.v
  simp only [execMpow, h.params, h.lctrl, h.M, State.argExponent, h.larg0]
  split
  · exact completeAlike_bind hdraw _ fun _ =>
      completeAlike_bind hdraw _ fun P => completeAlike_ok _ _ (setM_v_congr hdraw d P)
  · exact completeAlike_illegal h.v

theorem SameOperands.execFib_alike {s u : State} (h : SameOperands s u) (d : VReg) :
    CompleteAlike (execFib d s) (execFib d u) := by
  have hdraw : s.drawWork.v = u.drawWork.v := h.v
  simp only [execFib, h.params, h.lctrl, h.argIndex, h.radix]
  exact completeAlike_bind hdraw _ fun _ => completeAlike_bind hdraw _ fun n =>
    completeAlike_bind hdraw _ fun x => completeAlike_fit_setV hdraw _ _ d

/-- Every command completes alike on the same operands (R92). -/
theorem SameOperands.exec_alike {s u : State} (h : SameOperands s u) (i : Instr) :
    CompleteAlike (exec i s) (exec i u) := by
  cases i with
  | nop => exact completeAlike_ok s u h.v
  | vzero rd => exact completeAlike_ok s u (setV_v_congr h.v rd [])
  | vconst rd =>
    simp only [exec, execVconst, h.params, h.radix, State.argValue, h.larg0]
    exact completeAlike_fit_setV h.v _ _ rd
  | vmov rd rs1 =>
    simp only [exec, execVmov, h.V]
    exact completeAlike_ok s u (setV_v_congr h.v rd (u.V rs1))
  | vlimbin rd => exact h.execVlimbin_alike rd
  | vadd rd rs1 rs2 =>
    simp only [exec, execVadd, h.params, h.radix, h.V]
    exact completeAlike_fit_setV h.v _ _ rd
  | vmul rd rs1 rs2 =>
    simp only [exec, execVmul, h.params, h.radix, h.V]
    exact completeAlike_fit_setV h.v _ _ rd
  | mmul rd rs1 rs2 => exact h.execMmul_alike rd rs1 rs2
  | mpow rd rs1 => exact h.execMpow_alike rd rs1
  | fib rd => exact h.execFib_alike rd
  | lowdig rs1 =>
    simp only [exec, execLowdig, h.argDigitCount]
    exact completeAlike_bind h.v _ fun k => completeAlike_ok s u h.v
  | decstr rs1 => exact completeAlike_ok s u h.v

/-- A LOWDIG without an error leaves the digits its rule names in RESULT (R140). -/
theorem result_of_exec_lowdig {a : VReg} {s t : State} (h : exec (.lowdig a) s = .next t) (hok : t.errcode = .none) :
    t.result = BitVec.ofNat 64 (lowDigits (s.V a) s.larg0.toNat) := by
  simp only [exec, execLowdig] at h
  rcases argDigitCount_cases s with ⟨-, hk⟩ | ⟨-, hk⟩
  · rw [hk] at h
    cases h
    rfl
  · rw [hk] at h
    cases h
    cases hok

/-- DECSTR leaves its register's decimal string in OUTBUF (R142). -/
theorem outbuf_of_exec_decstr {a : VReg} {s t : State} (h : exec (.decstr a) s = .next t) :
    t.outbuf = decimalString s.params.limbDigits (s.V a) := by
  cases h
  rfl

/-- Settles O11: the V registers and the error code are alike for every command, and RESULT and OUTBUF are written from
the operands alone. -/
theorem commandDependsOnLatchedOperandsAndRegistersOnly :
    Obligations.CommandDependsOnLatchedOperandsAndRegistersOnly := by
  intro i s u hparams hv hlarg0 hlctrl
  have h : SameOperands s u := ⟨hparams, hv, hlarg0, hlctrl⟩
  obtain ⟨s', u', hs, hu, hv', hcode⟩ := h.exec_alike i
  refine ⟨s', u', hs, hu, hv', hcode, ?_, ?_⟩
  · rintro ⟨r, rfl⟩ hok
    rw [result_of_exec_lowdig hs hok, result_of_exec_lowdig hu (hcode.symm.trans hok), h.V, h.larg0]
  · rintro ⟨r, rfl⟩
    rw [outbuf_of_exec_decstr hs, outbuf_of_exec_decstr hu, h.V, h.params]

end Sys2Proof.Machine
end

section
/-!
PROOF. Construction and data movement (R100 to R105): the words of these commands, what each leaves in its register, and
the sequence that loads a big integer limb by limb.
-/

namespace Sys2Proof.Machine

open Sys2Proof.Config

/-! ## Words (R81, R87) -/

theorem decode_ok_iff_of_wf {i : Instr} (h : i.wf = true) (w : Word) : decode w = .ok i ↔ w = encode i :=
  (decode_eq_ok_iff w i).trans (and_iff_right h)

theorem encode_vzero (d : VReg) : encode (.vzero d) = 0x01#64 ||| d.setWidth 64 <<< 8 := by
  simp [encode, commandWord]

theorem encode_vconst (d : VReg) : encode (.vconst d) = 0x02#64 ||| d.setWidth 64 <<< 8 := by
  simp [encode, commandWord]

theorem encode_vmov (d a : VReg) :
    encode (.vmov d a) = 0x03#64 ||| d.setWidth 64 <<< 8 ||| a.setWidth 64 <<< 12 := by
  simp [encode, commandWord]

theorem encode_vlimbin (d : VReg) : encode (.vlimbin d) = 0x04#64 ||| d.setWidth 64 <<< 8 := by
  simp [encode, commandWord]

/-! ## A completed write of one V register (R23, R92) -/

/-- The write and STATUS are all that differ. -/
theorem completesV_setV (d : VReg) (L : BigUint) (s : State) : CompletesV .none s ((s.setV d L).finish .none) := rfl

theorem sameVBut_setV (d : VReg) (L : BigUint) (s : State) : SameVBut d s ((s.setV d L).finish .none) :=
  fun _ hi => V_setV_other hi L s

theorem V_setV_finish (d : VReg) (L : BigUint) (s : State) : ((s.setV d L).finish .none).V d = L :=
  V_setV_same d L s

theorem valV_setV_finish (d : VReg) (L : BigUint) (s : State) :
    ((s.setV d L).finish .none).valV d = val s.radix L :=
  congrArg (val s.radix) (V_setV_same d L s)

theorem valV_setV_canon {s : State} (hs : s.Sound) (d : VReg) (x : Nat) :
    ((s.setV d (canon s.radix x)).finish .none).valV d = x :=
  (valV_setV_finish d _ s).trans (val_canon_of_wf hs.params_wf x)

/-- A number that fits is stored as its canonical limb sequence (R10, R21). -/
theorem holds_setV_canon {s : State} (hs : s.Sound) (d : VReg) {x : Nat} (hx : s.fitsReg x) :
    ((s.setV d (canon s.radix x)).finish .none).holds d x := by
  refine ⟨?_, valV_setV_canon hs d x⟩
  rw [V_setV_finish]
  exact canonicalBig_canon hs.params_wf hx

/-- Writing a canonical sequence and completing keeps the state sound. -/
theorem State.Sound.setV_finish {s : State} (hs : s.Sound) (d : VReg) {L : BigUint}
    (hL : canonicalBig s.params L = true) : ((s.setV d L).finish .none).Sound :=
  ⟨hs.params_wf, canonical_setV hs.canonical d hL⟩

/-! ## A number stored behind the capacity check (R6) -/

/-- The common end of the commands that compute a number for one V register: `L <- canon(x)`, CAPACITY when it is longer
than MAXLIMBS, else `V[d] <- L`. -/
def State.storeNumber (s : State) (d : VReg) (x : Nat) : Host.Outcome State Fault Refusal :=
  s.complete do
    let L ← fit s.params (canon s.radix x)
    return s.setV d L

theorem storeNumber_of_fits {s : State} (hs : s.Sound) (d : VReg) {x : Nat} (hx : s.fitsReg x) :
    s.storeNumber d x = .next ((s.setV d (canon s.radix x)).finish .none) := by
  have hfit : fit s.params (canon s.radix x) = .ok (canon s.radix x) := (fit_canon hs.params_wf x).trans (if_pos hx)
  rw [State.storeNumber, hfit]
  rfl

theorem storeNumber_of_not_fits {s : State} (hs : s.Sound) (d : VReg) {x : Nat} (hx : ¬s.fitsReg x) :
    s.storeNumber d x = .next (s.finish .capacity) := by
  have hfit : fit s.params (canon s.radix x) = .error .capacity := (fit_canon hs.params_wf x).trans (if_neg hx)
  rw [State.storeNumber, hfit]
  rfl

/-! ## What each command does -/

theorem exec_nop (s : State) : exec .nop s = .next (s.finish .none) := rfl

theorem exec_vzero (d : VReg) (s : State) : exec (.vzero d) s = .next ((s.setV d []).finish .none) := rfl

theorem exec_vconst (d : VReg) (s : State) : exec (.vconst d) s = s.storeNumber d s.larg0.toNat := rfl

theorem exec_vmov (d a : VReg) (s : State) : exec (.vmov d a) s = .next ((s.setV d (s.V a)).finish .none) := rfl

/-- VLIMBIN: the limb check, then the shifted number is stored (R104). -/
theorem exec_vlimbin (d : VReg) (s : State) :
    exec (.vlimbin d) s =
      if s.radix ≤ s.larg0.toNat then .next (s.finish .illegalOperand)
      else s.storeNumber d (s.valV d * s.radix + s.larg0.toNat) := by
  rw [exec, execVlimbin]
  rcases argLimb_cases s with ⟨hl, hlimb⟩ | ⟨hl, hlimb⟩
  · rw [hlimb, if_neg (by omega)]
    rfl
  · rw [hlimb, if_pos hl]
    rfl

theorem exec_vlimbin_of_lt {d : VReg} {s : State} (hl : s.larg0.toNat < s.radix) :
    exec (.vlimbin d) s = s.storeNumber d (s.valV d * s.radix + s.larg0.toNat) :=
  (exec_vlimbin d s).trans (if_neg (by omega))

theorem exec_vlimbin_of_ge {d : VReg} {s : State} (hl : s.radix ≤ s.larg0.toNat) :
    exec (.vlimbin d) s = .next (s.finish .illegalOperand) :=
  (exec_vlimbin d s).trans (if_pos hl)

/-! ## NOP, VZERO, VCONST, VMOV (R100 to R103) -/

/-- Settles O20: NOP is well formed, its word is 0, and its completion is STATUS alone. -/
theorem nopChangesOnlyStatus : Obligations.NopChangesOnlyStatus :=
  ⟨fun w => decode_ok_iff_of_wf (i := .nop) rfl w, exec_nop⟩

/-- Settles O21: the empty sequence is written. -/
theorem vzeroEmptiesItsRegister : Obligations.VzeroEmptiesItsRegister := by
  intro d s
  refine ⟨fun w => ?_, _, exec_vzero d s, V_setV_finish d [] s, valV_setV_finish d [] s, sameVBut_setV d [] s,
    completesV_setV d [] s⟩
  rw [decode_ok_iff_of_wf rfl, encode_vzero]

/-- Settles O22: LARG0 is stored behind the capacity check. -/
theorem vconstConstructsItsValue : Obligations.VconstConstructsItsValue := by
  intro d s hs
  refine ⟨fun w => ?_, fun hx => ?_, fun hx => ?_⟩
  · rw [decode_ok_iff_of_wf rfl, encode_vconst]
  · exact ⟨_, storeNumber_of_fits hs d hx, holds_setV_canon hs d hx, sameVBut_setV d _ s, completesV_setV d _ s⟩
  · exact storeNumber_of_not_fits hs d hx

/-- Settles O23: 2^64 ≤ (10^9)^3, so three limbs are enough, and MAXLIMBS is at least 3. -/
theorem vconstAlwaysFitsAtNineDigits : Obligations.VconstAlwaysFitsAtNineDigits := by
  intro d s hs h9
  have h3 := three_le_maxLimbs_of_wf hs.params_wf
  have hradix : s.radix = 10 ^ 9 := congrArg (10 ^ ·) h9
  have hlt : s.larg0.toNat < s.radix ^ 3 := by
    rw [hradix]
    exact s.larg0.isLt.trans (by decide)
  have hfits : s.fitsReg s.larg0.toNat := hlt.trans_le (Nat.pow_le_pow_right (by omega) h3)
  refine ⟨_, storeNumber_of_fits hs d hfits, holds_setV_canon hs d hfits, ?_, sameVBut_setV d _ s,
    completesV_setV d _ s⟩
  rw [V_setV_finish]
  exact (canon_length_le_iff (by omega) (by omega) _ 3).2 hlt

/-- Settles O24: the copy is a value of its own, so a write of one register is not seen through the other. -/
theorem vmovCopiesItsSource : Obligations.VmovCopiesItsSource := by
  intro d a s
  refine ⟨fun w => ?_, _, exec_vmov d a s, V_setV_finish d _ s, sameVBut_setV d _ s, completesV_setV d _ s,
    fun hne L => ⟨?_, ?_⟩⟩
  · rw [decode_ok_iff_of_wf rfl, encode_vmov]
  · rw [V_setV_other hne, V_setV_finish]
  · rw [V_setV_other hne.symm, sameVBut_setV d _ s a hne.symm]

/-! ## VLIMBIN (R104) -/

/-- A limb put below a canonical sequence: the sequence gets longer by that limb, except that a zero limb below the
empty sequence leaves it empty (R10, R104). -/
theorem canon_mul_radix_add {p : Params} (hp : p.wf = true) {L : BigUint} (hL : canonicalBig p L = true) {l : Word}
    (hl : l.toNat < p.radix) :
    canon p.radix (val p.radix L * p.radix + l.toNat) =
      if L = [] ∧ l = 0 then [] else l.setWidth 32 :: L := by
  obtain ⟨hlt, hlast, -⟩ := (canonicalBig_iff p L).1 hL
  have h10 := radix_pos_of_wf hp
  have h9 := radix_le_of_wf hp
  have h2 : 2 ≤ p.radix := by omega
  have hB : p.radix ≤ 2 ^ 32 := by omega
  have hlimb : (l.setWidth 32).toNat = l.toNat := by
    rw [BitVec.toNat_setWidth]
    omega
  split
  case isTrue hz =>
    obtain ⟨rfl, rfl⟩ := hz
    simp
  case isFalse hz =>
    have hlt' : ∀ m ∈ l.setWidth 32 :: L, m.toNat < p.radix := List.forall_mem_cons.2 ⟨hlimb ▸ hl, hlt⟩
    have hlast' : (l.setWidth 32 :: L).getLast? ≠ some 0 := by
      cases L with
      | nil =>
        rw [List.getLast?_singleton]
        intro h
        have hz0 : (l.setWidth 32).toNat = 0 := congrArg BitVec.toNat (Option.some.inj h)
        exact hz ⟨rfl, BitVec.eq_of_toNat_eq (hlimb.symm.trans hz0)⟩
      | cons m ms => rwa [List.getLast?_cons_cons]
    refine eq_of_val_eq h2 _ _ (canon_lt h2 hB _) hlt' (canon_getLast h2 hB _) hlast' ?_
    rw [val_canon h2 hB, val_cons, hlimb]
    ring

/-- Settles O25: by the limb check, then by the capacity check. -/
theorem vlimbinShiftsALimbIn : Obligations.VlimbinShiftsALimbIn := by
  intro d s hs
  refine ⟨fun w => ?_, fun hl => exec_vlimbin_of_ge hl, fun hl hx => ?_, fun hl hx => ?_⟩
  · rw [decode_ok_iff_of_wf rfl, encode_vlimbin]
  · refine ⟨_, (exec_vlimbin_of_lt hl).trans (storeNumber_of_fits hs d hx), holds_setV_canon hs d hx, ?_,
      sameVBut_setV d _ s, completesV_setV d _ s⟩
    rw [V_setV_finish]
    exact canon_mul_radix_add hs.params_wf (sound_V hs d) hl
  · exact (exec_vlimbin_of_lt hl).trans (storeNumber_of_not_fits hs d hx)

/-! ## Loading a big integer (R105) -/

theorem loadLimbs_cons {d : VReg} {l : Word} {ls : List Word} {s t : State}
    (h : exec (.vlimbin d) { s with larg0 := l } = .next t) (hok : t.errcode = .none) :
    loadLimbs d (l :: ls) s = loadLimbs d ls t := by
  simp only [loadLimbs, h, hok, if_true]

/-- Shifting one more limb in: a number below B^k and a limb give a number below B^(k+1). -/
theorem mul_add_lt_pow_succ {B k x l : Nat} (hx : x < B ^ k) (hl : l < B) : x * B + l < B ^ (k + 1) :=
  calc x * B + l < x * B + B := by omega
    _ = (x + 1) * B := by ring
    _ ≤ B ^ k * B := Nat.mul_le_mul_right B hx
    _ = B ^ (k + 1) := (pow_succ B k).symm

/-- One limb shifted in on top of a number of at most `k` limbs, where MAXLIMBS leaves room for it. -/
theorem loadLimbs_step {d : VReg} {l : Word} {s : State} {k : Nat} (hs : s.Sound) (hl : l.toNat < s.radix)
    (hval : s.valV d < s.radix ^ k) (hk : k + 1 ≤ s.params.maxLimbs) :
    ∃ t : State, (∀ ls, loadLimbs d (l :: ls) s = loadLimbs d ls t) ∧ t.Sound ∧ t.params = s.params ∧
      t.valV d = s.valV d * s.radix + l.toNat := by
  have hlatched : ({ s with larg0 := l } : State).Sound := ⟨hs.params_wf, hs.canonical⟩
  have hfits : s.fitsReg (s.valV d * s.radix + l.toNat) :=
    (mul_add_lt_pow_succ hval hl).trans_le (Nat.pow_le_pow_right (by omega) hk)
  have hexec : exec (.vlimbin d) { s with larg0 := l } = _ :=
    (exec_vlimbin_of_lt hl).trans (storeNumber_of_fits hlatched d hfits)
  exact ⟨_, fun ls => loadLimbs_cons hexec rfl,
    hlatched.setV_finish d (canonicalBig_canon hs.params_wf hfits), rfl, valV_setV_canon hlatched d _⟩

/-- The limbs can be shifted in on top of a number of at most `k` limbs as long as `k` and their count are together at
most MAXLIMBS. -/
theorem loadLimbs_spells (d : VReg) :
    ∀ (ls : List Word) (s : State) (k : Nat), s.Sound → s.valV d < s.radix ^ k → k + ls.length ≤ s.params.maxLimbs →
      (∀ l ∈ ls, l.toNat < s.radix) →
      ∃ u, loadLimbs d ls s = some u ∧ u.valV d = ls.foldl (fun x l => x * s.radix + l.toNat) (s.valV d) := by
  intro ls
  induction ls with
  | nil => exact fun s k _ _ _ _ => ⟨s, rfl, rfl⟩
  | cons l ls ih =>
    intro s k hs hval hlen hlimbs
    obtain ⟨hl, hls⟩ := List.forall_mem_cons.1 hlimbs
    rw [List.length_cons] at hlen
    obtain ⟨t, hload, ht, hparams, hvalt⟩ := loadLimbs_step hs hl hval (by omega)
    have hradix : t.radix = s.radix := congrArg Params.radix hparams
    have hvalt_lt : t.valV d < t.radix ^ (k + 1) := by
      rw [hvalt, hradix]
      exact mul_add_lt_pow_succ hval hl
    obtain ⟨u, hu, hspelled⟩ := ih t (k + 1) ht hvalt_lt (by rw [hparams]; omega) (by rwa [hradix])
    refine ⟨u, (hload ls).trans hu, ?_⟩
    rw [hspelled, hradix, hvalt, List.foldl_cons]

/-- Settles O26: VZERO leaves zero, a number below B^0; the limbs are shifted in on top of it. -/
theorem loadSequenceLeavesTheSpelledValue : Obligations.LoadSequenceLeavesTheSpelledValue := by
  intro d ls s hs hlen hlimbs
  have hzero : ((s.setV d []).finish .none).valV d = 0 := valV_setV_finish d [] s
  obtain ⟨u, hload, hu⟩ := loadLimbs_spells d ls _ 0 (hs.setV_finish d (canonicalBig_nil _))
    (hzero.trans_lt Nat.one_pos) ((Nat.zero_add _).trans_le hlen) hlimbs
  rw [hzero] at hu
  exact ⟨_, u, exec_vzero d s, rfl, hload, hu⟩

end Sys2Proof.Machine
end

section
/-!
PROOF. The adder and the multiplier (R120 to R126): what VADD and VMUL store, the algebraic laws and the lengths of
their results, and that only the exponentiation engine looks at the truncation setting.
-/

namespace Sys2Proof.Machine

open Sys2Proof.Config

/-! ## Truncation is the engine's alone (R126, R166) -/

/-- The state accepted with another truncation setting. -/
def State.withLCtrl (l : LCtrl) (s : State) : State := { s with lctrl := l }

/-- Two completions differ in the latched truncation setting alone, which is `l` in the second. -/
def SameButLCtrl (l : LCtrl) (o o' : Host.Outcome State Fault Refusal) : Prop :=
  ∃ t : State, o = .next t ∧ o' = .next (t.withLCtrl l)

/-- A completion that succeeds keeps the setting it was accepted with. -/
theorem sameButLCtrl_ok (l : LCtrl) (s w : State) :
    SameButLCtrl l (s.complete (.ok w)) ((s.withLCtrl l).complete (.ok (w.withLCtrl l))) :=
  ⟨_, rfl, rfl⟩

/-- A check that does not look at the setting may come first: if it raises an error, only STATUS is written. -/
theorem sameButLCtrl_bind (l : LCtrl) (s : State) {α : Type} (x : Except ErrCode α) {f g : α → Except ErrCode State}
    (hfg : ∀ a, SameButLCtrl l (s.complete (f a)) ((s.withLCtrl l).complete (g a))) :
    SameButLCtrl l (s.complete (x >>= f)) ((s.withLCtrl l).complete (x >>= g)) := by
  cases x with
  | ok a => exact hfg a
  | error c => exact ⟨_, rfl, rfl⟩

/-- A number is stored behind the capacity check whatever the setting. -/
theorem sameButLCtrl_fit_setV (l : LCtrl) (s : State) (p : Params) (L : BigUint) (d : VReg) :
    SameButLCtrl l (s.complete do let M ← fit p L; return s.setV d M)
      ((s.withLCtrl l).complete do let M ← fit p L; return (s.withLCtrl l).setV d M) :=
  sameButLCtrl_bind l s (fit p L) fun M => sameButLCtrl_ok l s (s.setV d M)

theorem sameButLCtrl_execMmul (l : LCtrl) (d a b : MReg) (s : State) :
    SameButLCtrl l (execMmul d a b s) (execMmul d a b (s.withLCtrl l)) := by
  unfold execMmul
  split
  · exact sameButLCtrl_bind l s _ fun R => sameButLCtrl_ok l s (s.setM d R)
  · exact ⟨_, rfl, rfl⟩

/-- Settles O13: outside MPOW and FIB no check, value or write reads the setting. -/
theorem truncationSettingMattersOnlyToMpowAndFib : Obligations.TruncationSettingMattersOnlyToMpowAndFib := by
  intro i s l hmpow hfib
  cases i with
  | mpow d a => exact absurd rfl (hmpow d a)
  | fib d => exact absurd rfl (hfib d)
  | nop => exact sameButLCtrl_ok l s s
  | vzero d => exact sameButLCtrl_ok l s (s.setV d [])
  | vmov d a => exact sameButLCtrl_ok l s (s.setV d (s.V a))
  | decstr a => exact sameButLCtrl_ok l s (s.setOutbuf _)
  | vconst d | vadd d _ _ | vmul d _ _ => exact sameButLCtrl_fit_setV l s s.params _ d
  | vlimbin d => exact sameButLCtrl_bind l s s.argLimb fun _ => sameButLCtrl_fit_setV l s s.params _ d
  | mmul d a b => exact sameButLCtrl_execMmul l d a b s
  | lowdig a => exact sameButLCtrl_bind l s s.argDigitCount fun _ => sameButLCtrl_ok l s (s.setResult _)

/-! ## Sums and products as limb sequences (R120, R122) -/

theorem val_addBig {p : Params} (hp : p.wf = true) (a b : BigUint) :
    val p.radix (addBig p.radix a b) = val p.radix a + val p.radix b :=
  val_canon_of_wf hp _

theorem val_mulBig {p : Params} (hp : p.wf = true) (a b : BigUint) :
    val p.radix (mulBig p.radix a b) = val p.radix a * val p.radix b := by
  rw [mulBig_eq_canon, val_canon_of_wf hp]

/-- Adding zero is the identity on canonical sequences (R124). -/
theorem addBig_nil {p : Params} (hp : p.wf = true) {a : BigUint} (ha : canonicalBig p a = true) :
    addBig p.radix a [] = a :=
  canon_val hp ha

theorem addBig_comm (B : Nat) (a b : BigUint) : addBig B a b = addBig B b a :=
  congrArg (canon B) (Nat.add_comm _ _)

theorem nil_addBig {p : Params} (hp : p.wf = true) {b : BigUint} (hb : canonicalBig p b = true) :
    addBig p.radix [] b = b :=
  (addBig_comm p.radix [] b).trans (addBig_nil hp hb)

theorem mulBig_comm (B : Nat) (a b : BigUint) : mulBig B a b = mulBig B b a := by
  rw [mulBig_eq_canon, mulBig_eq_canon, Nat.mul_comm]

theorem nil_mulBig (B : Nat) (b : BigUint) : mulBig B [] b = [] := if_pos (.inl rfl)

theorem mulBig_nil (B : Nat) (a : BigUint) : mulBig B a [] = [] := if_pos (.inr rfl)

theorem val_one (B : Nat) : val B [1] = 1 := rfl

/-! ## VADD and VMUL (R120, R122) -/

theorem encode_vadd (d a b : VReg) :
    encode (.vadd d a b) = 0x10#64 ||| d.setWidth 64 <<< 8 ||| a.setWidth 64 <<< 12 ||| b.setWidth 64 <<< 16 := by
  simp [encode, commandWord]

theorem encode_vmul (d a b : VReg) :
    encode (.vmul d a b) = 0x11#64 ||| d.setWidth 64 <<< 8 ||| a.setWidth 64 <<< 12 ||| b.setWidth 64 <<< 16 := by
  simp [encode, commandWord]

theorem exec_vadd (d a b : VReg) (s : State) : exec (.vadd d a b) s = s.storeNumber d (s.valV a + s.valV b) := rfl

/-- The short-circuit of an empty operand stores the same as the general case. -/
theorem exec_vmul (d a b : VReg) (s : State) : exec (.vmul d a b) s = s.storeNumber d (s.valV a * s.valV b) := by
  rw [exec, execVmul, mulBig_eq_canon]
  rfl

/-- Settles O27: the sum is stored behind the capacity check, and the sum with the empty sequence is the other operand. -/
theorem vaddStoresTheExactSum : Obligations.VaddStoresTheExactSum := by
  intro d a b s hs
  refine ⟨fun w => ?_, fun hx => ?_, fun hx => (exec_vadd d a b s).trans (storeNumber_of_not_fits hs d hx)⟩
  · rw [decode_ok_iff_of_wf rfl, encode_vadd]
  · have hV : ((s.setV d (addBig s.radix (s.V a) (s.V b))).finish .none).V d = addBig s.radix (s.V a) (s.V b) :=
      V_setV_finish d _ s
    refine ⟨_, (exec_vadd d a b s).trans (storeNumber_of_fits hs d hx), holds_setV_canon hs d hx,
      sameVBut_setV d _ s, completesV_setV d _ s, fun ha => hV.trans ?_, fun hb => hV.trans ?_⟩
    · rw [ha]
      exact nil_addBig hs.params_wf (sound_V hs b)
    · rw [hb]
      exact addBig_nil hs.params_wf (sound_V hs a)

/-- Settles O28: the product is stored behind the capacity check, and a product with the empty sequence is empty. -/
theorem vmulStoresTheExactProduct : Obligations.VmulStoresTheExactProduct := by
  intro d a b s hs
  refine ⟨fun w => ?_, fun hx => ?_, fun hx => (exec_vmul d a b s).trans (storeNumber_of_not_fits hs d hx)⟩
  · rw [decode_ok_iff_of_wf rfl, encode_vmul]
  · refine ⟨_, (exec_vmul d a b s).trans (storeNumber_of_fits hs d hx), holds_setV_canon hs d hx,
      sameVBut_setV d _ s, completesV_setV d _ s, fun hab => ?_⟩
    have hV := V_setV_finish d (canon s.radix (s.valV a * s.valV b)) s
    rw [hV, State.valV, State.valV, ← mulBig_eq_canon]
    rcases hab with ha | hb
    · rw [ha, nil_mulBig]
    · rw [hb, mulBig_nil]

/-! ## The algebraic laws (R124) -/

theorem addBig_assoc {p : Params} (hp : p.wf = true) (a b c : BigUint) :
    addBig p.radix (addBig p.radix a b) c = addBig p.radix a (addBig p.radix b c) := by
  rw [addBig, val_addBig hp, Nat.add_assoc, ← val_addBig hp b c]
  rfl

theorem mulBig_assoc {p : Params} (hp : p.wf = true) (a b c : BigUint) :
    mulBig p.radix (mulBig p.radix a b) c = mulBig p.radix a (mulBig p.radix b c) := by
  rw [mulBig_eq_canon, val_mulBig hp, Nat.mul_assoc, ← val_mulBig hp b c, ← mulBig_eq_canon]

theorem mulBig_addBig {p : Params} (hp : p.wf = true) (a b c : BigUint) :
    mulBig p.radix a (addBig p.radix b c) = addBig p.radix (mulBig p.radix a b) (mulBig p.radix a c) := by
  rw [mulBig_eq_canon, val_addBig hp, Nat.mul_add, ← val_mulBig hp a b, ← val_mulBig hp a c]
  rfl

theorem mulBig_one {p : Params} (hp : p.wf = true) {a : BigUint} (ha : canonicalBig p a = true) :
    mulBig p.radix a [1] = a := by
  rw [mulBig_eq_canon, val_one, Nat.mul_one, canon_val hp ha]

/-- Settles O29: each law is the one of the numbers, since a canonical form is determined by its value. -/
theorem addAndMulObeyTheAlgebraicLaws : Obligations.AddAndMulObeyTheAlgebraicLaws := by
  intro p a b c hp ha _ _
  exact ⟨addBig_comm _ a b, addBig_assoc hp a b c, mulBig_comm _ a b, mulBig_assoc hp a b c, mulBig_addBig hp a b c,
    mulBig_nil _ a, addBig_nil hp ha, mulBig_one hp ha⟩

/-! ## Lengths (R125) -/

theorem canon_length_le_iff_of_wf {p : Params} (hp : p.wf = true) (x k : Nat) :
    (canon p.radix x).length ≤ k ↔ x < p.radix ^ k :=
  canon_length_le_iff (by have := radix_pos_of_wf hp; omega) ((radix_le_of_wf hp).trans (by decide)) x k

/-- A canonical sequence has at most `k` limbs exactly when its value is below B^k (R10). -/
theorem length_le_iff_val_lt {p : Params} (hp : p.wf = true) {a : BigUint} (ha : canonicalBig p a = true) (k : Nat) :
    a.length ≤ k ↔ val p.radix a < p.radix ^ k := by
  rw [← canon_length_le_iff_of_wf hp, canon_val hp ha]

/-- A smaller number has no longer canonical form. -/
theorem length_le_canon_length {p : Params} (hp : p.wf = true) {a : BigUint} (ha : canonicalBig p a = true) {x : Nat}
    (hx : val p.radix a ≤ x) : a.length ≤ (canon p.radix x).length :=
  (length_le_iff_val_lt hp ha _).2 (hx.trans_lt ((canon_length_le_iff_of_wf hp x _).1 le_rfl))

/-- Two numbers below B^k have a sum below B^(k+1). -/
theorem length_addBig_le {p : Params} (hp : p.wf = true) {a b : BigUint} (ha : canonicalBig p a = true)
    (hb : canonicalBig p b = true) : (addBig p.radix a b).length ≤ max a.length b.length + 1 := by
  have h10 := radix_pos_of_wf hp
  have hva := (length_le_iff_val_lt hp ha _).1 (le_max_left a.length b.length)
  have hvb := (length_le_iff_val_lt hp hb _).1 (le_max_right a.length b.length)
  refine (canon_length_le_iff_of_wf hp _ _).2 ?_
  calc val p.radix a + val p.radix b
      < p.radix ^ max a.length b.length * 2 := by omega
    _ ≤ p.radix ^ max a.length b.length * p.radix := Nat.mul_le_mul_left _ (by omega)
    _ = p.radix ^ (max a.length b.length + 1) := (pow_succ _ _).symm

/-- Each operand is at most the sum. -/
theorem le_length_addBig {p : Params} (hp : p.wf = true) {a b : BigUint} (ha : canonicalBig p a = true)
    (hb : canonicalBig p b = true) : max a.length b.length ≤ (addBig p.radix a b).length :=
  max_le (length_le_canon_length hp ha (Nat.le_add_right _ _)) (length_le_canon_length hp hb (Nat.le_add_left _ _))

theorem length_mulBig_le {p : Params} (hp : p.wf = true) {a b : BigUint} (ha : canonicalBig p a = true)
    (hb : canonicalBig p b = true) : (mulBig p.radix a b).length ≤ a.length + b.length := by
  have hva := (length_le_iff_val_lt hp ha _).1 le_rfl
  have hvb := (length_le_iff_val_lt hp hb _).1 le_rfl
  rw [mulBig_eq_canon, canon_length_le_iff_of_wf hp, pow_add]
  exact Nat.mul_lt_mul'' hva hvb

/-- The product is at least B^(la - 1) · B^(lb - 1). -/
theorem lt_length_mulBig {p : Params} (hp : p.wf = true) {a b : BigUint} (ha : canonicalBig p a = true)
    (hb : canonicalBig p b = true) (hla : 1 ≤ a.length) (hlb : 1 ≤ b.length) :
    a.length - 1 + (b.length - 1) < (mulBig p.radix a b).length := by
  obtain ⟨-, hlasta, -⟩ := (canonicalBig_iff p a).1 ha
  obtain ⟨-, hlastb, -⟩ := (canonicalBig_iff p b).1 hb
  have hva := pow_le_val (B := p.radix) a (List.ne_nil_of_length_pos hla) hlasta
  have hvb := pow_le_val (B := p.radix) b (List.ne_nil_of_length_pos hlb) hlastb
  rw [← not_le, mulBig_eq_canon, canon_length_le_iff_of_wf hp, pow_add, not_lt]
  exact Nat.mul_le_mul hva hvb

/-- Settles O30: each length lies between two neighbouring numbers. -/
theorem sumAndProductLengthBounds : Obligations.SumAndProductLengthBounds := by
  intro p a b hp ha hb
  refine ⟨?_, fun hla hlb => ?_⟩
  · have hle := length_addBig_le hp ha hb
    have hge := le_length_addBig hp ha hb
    omega
  · have hle := length_mulBig_le hp ha hb
    have hgt := lt_length_mulBig hp ha hb hla hlb
    omega

end Sys2Proof.Machine
end

section
/-!
PROOF. The source's limb-level algorithms (R121, R123) give the sum of R120 and the product of R122: in the 64-bit
accumulator nothing overflows (R8), and no carry runs out of the scratch.
-/

namespace Sys2Proof.Machine

open Sys2Proof.Config

/-! ## The radix in the accumulator (R5, R7, R8) -/

/-- The radix of a legal build, as the word the accumulator works with: B^2 < 2^64 follows (R8). -/
structure LegalRadix (B : Word) : Prop where
  two_le : 2 ≤ B.toNat
  le : B.toNat ≤ 10 ^ 9

theorem toNat_radixWord {p : Params} (hp : p.wf = true) : (BitVec.ofNat 64 p.radix).toNat = p.radix :=
  (BitVec.toNat_ofNat _ _).trans (Nat.mod_eq_of_lt ((radix_le_of_wf hp).trans_lt (by decide)))

theorem legalRadix_of_wf {p : Params} (hp : p.wf = true) : LegalRadix (BitVec.ofNat 64 p.radix) where
  two_le := by
    have h10 := radix_pos_of_wf hp
    rw [toNat_radixWord hp]
    omega
  le := (toNat_radixWord hp).trans_le (radix_le_of_wf hp)

theorem LegalRadix.le_limb {B : Word} (hB : LegalRadix B) : B.toNat ≤ 2 ^ 32 := hB.le.trans (by decide)

theorem toNat_wide (l : Limb) : (wide l).toNat = l.toNat :=
  (BitVec.toNat_setWidth 64 l).trans (Nat.mod_eq_of_lt (l.isLt.trans (by decide)))

theorem toNat_narrow {w : Word} (h : w.toNat < 2 ^ 32) : (narrow w).toNat = w.toNat :=
  (BitVec.toNat_setWidth 32 w).trans (Nat.mod_eq_of_lt h)

/-! ## Canonical forms, limb by limb (R10) -/

/-- A limb put below a number: its canonical form gets that limb in front, unless both are zero. -/
theorem canon_limb_add {B : Nat} (h2 : 2 ≤ B) (hB : B ≤ 2 ^ 32) {l : Limb} (hl : l.toNat < B) {x : Nat}
    (hne : l.toNat + B * x ≠ 0) : canon B (l.toNat + B * x) = l :: canon B x := by
  have hlt : ∀ m ∈ l :: canon B x, m.toNat < B := List.forall_mem_cons.2 ⟨hl, canon_lt h2 hB x⟩
  have hval : val B (l :: canon B x) = l.toNat + B * x := by rw [val_cons, val_canon h2 hB]
  have hlast : (l :: canon B x).getLast? ≠ some 0 := by
    cases hx : canon B x with
    | nil =>
      rw [hx, val_cons, val_nil] at hval
      rw [List.getLast?_singleton]
      rintro h
      cases Option.some.inj h
      exact hne hval.symm
    | cons m ms =>
      rw [List.getLast?_cons_cons, ← hx]
      exact canon_getLast h2 hB x
  exact eq_of_val_eq h2 _ _ (canon_lt h2 hB _) hlt (canon_getLast h2 hB _) hlast ((val_canon h2 hB _).trans hval.symm)

/-- Emitting `s mod B` and carrying `s div B` forward spells the canonical form (R121). -/
theorem canon_emit {B : Word} (hB : LegalRadix B) (s : Word) {x : Nat} (hne : s.toNat + B.toNat * x ≠ 0) :
    canon B.toNat (s.toNat + B.toNat * x) = narrow (s % B) :: canon B.toNat ((s / B).toNat + x) := by
  have hmod : (s % B).toNat < B.toNat := Nat.mod_lt _ (by have := hB.two_le; omega)
  have hlimb : (narrow (s % B)).toNat = s.toNat % B.toNat := toNat_narrow (hmod.trans_le hB.le_limb)
  have hsplit : (narrow (s % B)).toNat + B.toNat * ((s / B).toNat + x) = s.toNat + B.toNat * x := by
    rw [hlimb, BitVec.toNat_udiv, Nat.mul_add, ← Nat.add_assoc, Nat.mod_add_div]
  rw [← hsplit]
  exact canon_limb_add hB.two_le hB.le_limb (hlimb.trans_lt hmod) (hsplit.trans_ne hne)

/-! ## The operands (R21) -/

/-- A canonical limb sequence of any length (R10): every limb below B and no top zero. -/
structure CanonicalLimbs (B : Nat) (L : BigUint) : Prop where
  lt : ∀ l ∈ L, l.toNat < B
  getLast : L.getLast? ≠ some 0

theorem canonicalLimbs_of_canonicalBig {p : Params} {L : BigUint} (h : canonicalBig p L = true) :
    CanonicalLimbs p.radix L := by
  obtain ⟨hlt, hlast, -⟩ := (canonicalBig_iff p L).1 h
  exact ⟨hlt, hlast⟩

theorem CanonicalLimbs.tail {B : Nat} {l : Limb} {ls : BigUint} (h : CanonicalLimbs B (l :: ls)) :
    CanonicalLimbs B ls := by
  refine ⟨fun m hm => h.lt m (List.mem_cons_of_mem l hm), ?_⟩
  cases ls with
  | nil => exact nofun
  | cons m ms => exact List.getLast?_cons_cons ▸ h.getLast

theorem CanonicalLimbs.val_pos {B : Nat} (hB : 0 < B) {l : Limb} {ls : BigUint} (h : CanonicalLimbs B (l :: ls)) :
    0 < val B (l :: ls) :=
  (Nat.pow_pos hB).trans_le (pow_le_val (l :: ls) (List.cons_ne_nil l ls) h.getLast)

/-! ## The addition loop (R121) -/

/-- A carry of at most 1 and two limbs: the sum fits the accumulator, and the next carry is at most 1 again (R121). -/
theorem toNat_carry_add {B : Word} (hB : LegalRadix B) {carry x y : Word} (hc : carry.toNat ≤ 1)
    (hx : x.toNat < B.toNat) (hy : y.toNat < B.toNat) :
    (carry + x + y).toNat = carry.toNat + x.toNat + y.toNat ∧ ((carry + x + y) / B).toNat ≤ 1 := by
  have hle := hB.le
  have hsum : (carry + x + y).toNat = carry.toNat + x.toNat + y.toNat := by bv_omega
  refine ⟨hsum, Nat.lt_succ_iff.1 (Nat.div_lt_of_lt_mul ?_)⟩
  omega

/-- What is left of one operand and a carry: the sum's canonical form. -/
theorem addTail_eq_canon {B : Word} (hB : LegalRadix B) :
    ∀ (as : BigUint) (carry : Word), CanonicalLimbs B.toNat as → carry.toNat ≤ 1 →
      addTail B carry as = canon B.toNat (carry.toNat + val B.toNat as) := by
  have h2 := hB.two_le
  intro as
  induction as with
  | nil => exact fun _ _ _ => rfl
  | cons a as ih =>
    intro carry has hc
    have hpos := has.val_pos (by omega)
    have ha : (wide a).toNat < B.toNat := (toNat_wide a).trans_lt (has.lt a List.mem_cons_self)
    obtain ⟨hsum, hcarry⟩ := toNat_carry_add hB (y := 0#64) hc ha (by rw [BitVec.toNat_zero]; omega)
    rw [BitVec.add_zero] at hsum hcarry
    have hspelled : carry.toNat + val B.toNat (a :: as) = (carry + wide a).toNat + B.toNat * val B.toNat as := by
      rw [hsum, toNat_wide, val_cons, BitVec.toNat_zero, Nat.add_zero, Nat.add_assoc]
    rw [addTail, ih _ has.tail hcarry, hspelled, canon_emit hB _ (by omega)]

/-- The loop from a carry of at most 1: the sum's canonical form (R120, R121). -/
theorem addLoop_eq_canon {B : Word} (hB : LegalRadix B) :
    ∀ (as bs : BigUint) (carry : Word), CanonicalLimbs B.toNat as → CanonicalLimbs B.toNat bs → carry.toNat ≤ 1 →
      addLoop B carry as bs = canon B.toNat (carry.toNat + val B.toNat as + val B.toNat bs) := by
  have h2 := hB.two_le
  intro as
  induction as with
  | nil =>
    intro bs carry _ hbs hc
    rw [addLoop]
    exact addTail_eq_canon hB bs carry hbs hc
  | cons a as ih =>
    intro bs carry has hbs hc
    cases bs with
    | nil =>
      rw [addLoop]
      exact addTail_eq_canon hB (a :: as) carry has hc
    | cons b bs =>
      have hpos := has.val_pos (by omega)
      have ha : (wide a).toNat < B.toNat := (toNat_wide a).trans_lt (has.lt a List.mem_cons_self)
      have hb : (wide b).toNat < B.toNat := (toNat_wide b).trans_lt (hbs.lt b List.mem_cons_self)
      obtain ⟨hsum, hcarry⟩ := toNat_carry_add hB hc ha hb
      have hspelled : carry.toNat + val B.toNat (a :: as) + val B.toNat (b :: bs) =
          (carry + wide a + wide b).toNat + B.toNat * (val B.toNat as + val B.toNat bs) := by
        rw [hsum, toNat_wide, toNat_wide, val_cons, val_cons]
        ring
      rw [addLoop, ih bs _ has.tail hbs.tail hcarry, hspelled, canon_emit hB _ (by omega), Nat.add_assoc]

/-- Settles O31: an empty operand leaves the other one; otherwise the loop starts with no carry. -/
theorem additionLoopGivesTheExactSum : Obligations.AdditionLoopGivesTheExactSum := by
  intro p a b hp ha hb
  have hB := toNat_radixWord hp
  have hloop := addLoop_eq_canon (legalRadix_of_wf hp) a b 0
  rw [hB] at hloop
  unfold addAlgorithm
  split
  case isTrue h =>
    cases List.length_eq_zero_iff.1 h
    exact (nil_addBig hp hb).symm
  case isFalse =>
    split
    case isTrue h =>
      cases List.length_eq_zero_iff.1 h
      exact (addBig_nil hp ha).symm
    case isFalse =>
      rw [hloop (canonicalLimbs_of_canonicalBig ha) (canonicalLimbs_of_canonicalBig hb) (by decide)]
      change canon _ (0 + _ + _) = _
      rw [Nat.zero_add]
      rfl

/-! ## The scratch of the convolution (R123) -/

/-- The scratch `T` has `n` cells, each below B, that spell the number `x`, least significant cell first (R123). -/
inductive Spells (B : Nat) : Nat → Nat → List Word → Prop
  | nil : Spells B 0 0 []
  | cons {n x : Nat} {c : Word} {cs : List Word} (hc : c.toNat < B) (hcs : Spells B n x cs) :
      Spells B (n + 1) (c.toNat + B * x) (c :: cs)

theorem spells_replicate_zero {B : Nat} (hB : 0 < B) (n : Nat) : Spells B n 0 (List.replicate n 0) := by
  induction n with
  | zero => exact .nil
  | succ n ih => exact .cons (c := 0) hB ih

/-- The scratch after a cell is rewritten. -/
theorem Spells.cons_eq {B n x y : Nat} {c : Word} {cs : List Word} (hcs : Spells B n x cs) (hc : c.toNat < B)
    (hy : c.toNat + B * x = y) : Spells B (n + 1) y (c :: cs) :=
  hy ▸ .cons hc hcs

/-- A sum below B^(n + 1) has its part above the lowest cell below B^n: no carry runs out of the scratch. -/
theorem lt_pow_of_add_mul_lt {B c x n : Nat} (h : c + B * x < B ^ (n + 1)) : x < B ^ n := by
  rw [pow_succ'] at h
  exact Nat.lt_of_mul_lt_mul_left ((Nat.le_add_left _ c).trans_lt h)

/-- A cell below B and at most (B - 1)·B more: the accumulator holds the sum, and less than B is carried on (R8). -/
theorem toNat_cell_add {B : Word} (hB : LegalRadix B) {c x : Word} (hc : c.toNat < B.toNat)
    (hx : x.toNat ≤ (B.toNat - 1) * B.toNat) :
    (c + x).toNat = c.toNat + x.toNat ∧ ((c + x) / B).toNat ≤ B.toNat - 1 := by
  have h2 := hB.two_le
  have hsq : (B.toNat - 1) * B.toNat + B.toNat = B.toNat * B.toNat := by
    rw [Nat.sub_one_mul, Nat.sub_add_cancel (Nat.le_mul_self _)]
  have hle : B.toNat * B.toNat ≤ 10 ^ 9 * 10 ^ 9 := Nat.mul_le_mul hB.le hB.le
  have hsum : (c + x).toNat = c.toNat + x.toNat := by
    rw [BitVec.toNat_add]
    exact Nat.mod_eq_of_lt (by omega)
  have hlt : (c + x).toNat < B.toNat * B.toNat := by omega
  exact ⟨hsum, Nat.le_sub_one_of_lt (Nat.div_lt_of_lt_mul hlt)⟩

/-- Normalising upward adds `x` to the number spelled, as long as the sum still fits the cells (R123). -/
theorem Spells.carryUp {B : Word} (hB : LegalRadix B) {n y : Nat} {T : List Word} (h : Spells B.toNat n y T) :
    ∀ x : Word, x.toNat ≤ (B.toNat - 1) * B.toNat → y + x.toNat < B.toNat ^ n →
      Spells B.toNat n (y + x.toNat) (carryUp B x T) := by
  have h2 := hB.two_le
  induction h with
  | nil =>
    intro x _ hfit
    have hx : x.toNat = 0 := by rw [pow_zero] at hfit; omega
    rw [hx]
    exact .nil
  | @cons n y c cs hc hcs ih =>
    intro x hx hfit
    obtain ⟨hsum, hcarry⟩ := toNat_cell_add hB hc hx
    have hsum' : c.toNat + B.toNat * y + x.toNat = (c + x).toNat + B.toNat * y := by omega
    rw [hsum'] at hfit ⊢
    rw [Machine.carryUp]
    split
    case isTrue =>
      have hsplit : ((c + x) % B).toNat + B.toNat * (y + ((c + x) / B).toNat) = (c + x).toNat + B.toNat * y := by
        rw [BitVec.toNat_umod, BitVec.toNat_udiv, Nat.mul_add, Nat.add_left_comm, Nat.mod_add_div, Nat.add_comm]
      refine (ih _ ?_ (lt_pow_of_add_mul_lt (hsplit.trans_lt hfit))).cons_eq (Nat.mod_lt _ (by omega)) hsplit
      exact hcarry.trans (Nat.le_mul_of_pos_right _ (by omega))
    case isFalse hlt => exact .cons (BitVec.not_le.1 hlt) hcs

/-- Accumulating at position `p` adds `x · B^p` (R123). -/
theorem Spells.accumulate {B : Word} (hB : LegalRadix B) {x : Word} (hx : x.toNat ≤ (B.toNat - 1) * B.toNat) :
    ∀ (p : Nat) {n y : Nat} {T : List Word}, Spells B.toNat n y T → y + x.toNat * B.toNat ^ p < B.toNat ^ n →
      Spells B.toNat n (y + x.toNat * B.toNat ^ p) (accumulate B p x T) := by
  have h2 := hB.two_le
  intro p
  induction p with
  | zero =>
    intro n y T h hfit
    rw [pow_zero, Nat.mul_one] at hfit ⊢
    exact h.carryUp hB x hx hfit
  | succ p ih =>
    intro n y T h hfit
    cases h with
    | nil =>
      rw [pow_zero, Nat.lt_one_iff] at hfit
      rw [hfit]
      exact .nil
    | @cons n y c cs hc hcs =>
      have hsplit : c.toNat + B.toNat * (y + x.toNat * B.toNat ^ p) =
          c.toNat + B.toNat * y + x.toNat * B.toNat ^ (p + 1) := by ring
      exact (ih hcs (lt_pow_of_add_mul_lt (hsplit.trans_lt hfit))).cons_eq hc hsplit

/-- The product of two limbs fits the accumulator, with room for a cell (R8, R123). -/
theorem toNat_wide_mul {B : Word} (hB : LegalRadix B) {a b : Limb} (ha : a.toNat < B.toNat) (hb : b.toNat < B.toNat) :
    (wide a * wide b).toNat = a.toNat * b.toNat ∧ a.toNat * b.toNat ≤ (B.toNat - 1) * B.toNat := by
  have hle : a.toNat * b.toNat ≤ (B.toNat - 1) * B.toNat := Nat.mul_le_mul (Nat.le_pred_of_lt ha) hb.le
  have hlt : (B.toNat - 1) * B.toNat ≤ 10 ^ 9 * 10 ^ 9 :=
    Nat.mul_le_mul ((Nat.sub_le _ _).trans hB.le) hB.le
  refine ⟨?_, hle⟩
  rw [BitVec.toNat_mul, toNat_wide, toNat_wide]
  exact Nat.mod_eq_of_lt (by omega)

/-- The inner loop adds `a · val(bs) · B^p` (R123). -/
theorem Spells.mulRow {B : Word} (hB : LegalRadix B) {a : Limb} (ha : a.toNat < B.toNat) {n : Nat} :
    ∀ (bs : BigUint) (p : Nat) {y : Nat} {T : List Word}, (∀ b ∈ bs, b.toNat < B.toNat) → Spells B.toNat n y T →
      y + a.toNat * val B.toNat bs * B.toNat ^ p < B.toNat ^ n →
      Spells B.toNat n (y + a.toNat * val B.toNat bs * B.toNat ^ p) (mulRow B a p bs T) := by
  intro bs
  induction bs with
  | nil =>
    intro p y T _ h _
    simpa [Machine.mulRow] using h
  | cons b bs ih =>
    intro p y T hbs h hfit
    obtain ⟨hb, hbs⟩ := List.forall_mem_cons.1 hbs
    obtain ⟨hmul, hle⟩ := toNat_wide_mul hB ha hb
    have hsplit : y + a.toNat * val B.toNat (b :: bs) * B.toNat ^ p =
        y + (wide a * wide b).toNat * B.toNat ^ p + a.toNat * val B.toNat bs * B.toNat ^ (p + 1) := by
      rw [hmul, val_cons]
      ring
    rw [hsplit] at hfit ⊢
    have hcell := h.accumulate hB (hmul.trans_le hle) p ((Nat.le_add_right _ _).trans_lt hfit)
    exact ih (p + 1) hbs hcell hfit

/-- The outer loop adds `val(as) · val(b) · B^p` (R123). -/
theorem Spells.mulRows {B : Word} (hB : LegalRadix B) {b : BigUint} (hb : ∀ l ∈ b, l.toNat < B.toNat) {n : Nat} :
    ∀ (as : BigUint) (p : Nat) {y : Nat} {T : List Word}, (∀ a ∈ as, a.toNat < B.toNat) → Spells B.toNat n y T →
      y + val B.toNat as * val B.toNat b * B.toNat ^ p < B.toNat ^ n →
      Spells B.toNat n (y + val B.toNat as * val B.toNat b * B.toNat ^ p) (mulRows B b p as T) := by
  intro as
  induction as with
  | nil =>
    intro p y T _ h _
    simpa [Machine.mulRows] using h
  | cons a as ih =>
    intro p y T has h hfit
    obtain ⟨ha, has⟩ := List.forall_mem_cons.1 has
    have hsplit : y + val B.toNat (a :: as) * val B.toNat b * B.toNat ^ p =
        y + a.toNat * val B.toNat b * B.toNat ^ p + val B.toNat as * val B.toNat b * B.toNat ^ (p + 1) := by
      rw [val_cons]
      ring
    rw [hsplit] at hfit ⊢
    have hrow := h.mulRow hB ha b p hb ((Nat.le_add_right _ _).trans_lt hfit)
    exact ih (p + 1) has hrow hfit

/-! ## Trimming (R123) -/

theorem trimCells_cons (c : Word) (cs : List Word) :
    trimCells (c :: cs) = if c = 0 ∧ trimCells cs = [] then [] else c :: trimCells cs := by
  unfold trimCells
  rw [List.reverse_cons, List.dropWhile_append]
  cases cs.reverse.dropWhile fun w => decide (w = 0) with
  | nil => by_cases hc : c = 0#64 <;> simp [hc]
  | cons d ds => simp

/-- A trimmed scratch holds the canonical form of the number it spells. -/
theorem Spells.trimCells_eq_canon {B : Nat} (h2 : 2 ≤ B) (hB : B ≤ 2 ^ 32) {n x : Nat} {T : List Word}
    (h : Spells B n x T) : (trimCells T).map narrow = canon B x := by
  induction h with
  | nil => rfl
  | @cons n x c cs hc hcs ih =>
    have hlimb : (narrow c).toNat = c.toNat := toNat_narrow (hc.trans_le hB)
    have hzero : trimCells cs = [] ↔ x = 0 := by
      rw [← List.map_eq_nil_iff (f := narrow), ih]
      refine ⟨fun hnil => ?_, fun hx => hx ▸ rfl⟩
      rw [← val_canon h2 hB x, hnil, val_nil]
    rw [trimCells_cons]
    split
    case isTrue hz =>
      obtain ⟨rfl, hcs0⟩ := hz
      rw [hzero.1 hcs0]
      rfl
    case isFalse hz =>
      have hne : c.toNat + B * x ≠ 0 := by
        intro h0
        obtain ⟨hc0, hx0⟩ := Nat.add_eq_zero_iff.1 h0
        have hx0 : x = 0 := (Nat.mul_eq_zero.1 hx0).resolve_left (by omega)
        exact hz ⟨BitVec.eq_of_toNat_eq hc0, hzero.2 hx0⟩
      rw [← hlimb] at hne hc ⊢
      rw [List.map_cons, ih, canon_limb_add h2 hB hc hne]

/-- Settles O32: the product is below B^(la + lb), so it fits the scratch at every moment, whatever the slack. -/
theorem convolutionGivesTheExactProduct : Obligations.ConvolutionGivesTheExactProduct := by
  intro p slack a b hp ha hb
  have hB := toNat_radixWord hp
  have hlegal := legalRadix_of_wf hp
  have hpos : 0 < p.radix := by have := radix_pos_of_wf hp; omega
  have hla := (canonicalLimbs_of_canonicalBig ha).lt
  have hlb := (canonicalLimbs_of_canonicalBig hb).lt
  have hfit : val p.radix a * val p.radix b < p.radix ^ (a.length + b.length + slack) :=
    calc val p.radix a * val p.radix b < p.radix ^ a.length * p.radix ^ b.length :=
          Nat.mul_lt_mul'' (val_lt_pow a hla) (val_lt_pow b hlb)
      _ = p.radix ^ (a.length + b.length) := (pow_add _ _ _).symm
      _ ≤ p.radix ^ (a.length + b.length + slack) := Nat.pow_le_pow_right hpos (Nat.le_add_right _ _)
  have hrows := Spells.mulRows (n := a.length + b.length + slack) (y := 0) hlegal (b := b) (by rwa [hB]) a 0
    (by rwa [hB]) (by rw [hB]; exact spells_replicate_zero hpos _)
  rw [hB, pow_zero, Nat.mul_one, Nat.zero_add] at hrows
  unfold mulAlgorithm mulBig
  split
  case isTrue => rfl
  case isFalse => exact (hrows hfit).trimCells_eq_canon (hB ▸ hlegal.two_le) (hB ▸ hlegal.le_limb)

end Sys2Proof.Machine
end

section
/-!
PROOF. The output commands: LOWDIG reads its digits off the least-significant limb alone (R140), and a constant survives
the round trip through VCONST and DECSTR (R144).
-/

namespace Sys2Proof.Machine

/-! ## LOWDIG (R140) -/

/-- LOWDIG's word, its fields written out (R87). -/
theorem encode_lowdig (a : VReg) : encode (.lowdig a) = 0x40#64 ||| a.setWidth 64 <<< 12 := by
  simp [encode, commandWord]

/-- The limbs above the lowest weigh multiples of B, so of 10^k for every legal k. -/
theorem lowDigits_eq_val_mod (L : BigUint) {k n : Nat} (hk : k ≤ n) : lowDigits L k = val (10 ^ n) L % 10 ^ k := by
  cases L with
  | nil => exact (Nat.zero_mod _).symm
  | cons l ls =>
    obtain ⟨c, hc⟩ := pow_dvd_pow 10 hk
    rw [lowDigits, val_cons, hc, Nat.mul_assoc, Nat.add_mul_mod_self_left]

/-- The digits of one limb fit RESULT, whatever k is (R7, R28). -/
theorem lowDigits_lt (L : BigUint) (k : Nat) : lowDigits L k < 2 ^ 64 := by
  cases L with
  | nil => exact Nat.two_pow_pos 64
  | cons l ls =>
    calc l.toNat % 10 ^ k ≤ l.toNat := Nat.mod_le _ _
      _ < 2 ^ 32 := l.isLt
      _ < 2 ^ 64 := by decide

theorem exec_lowdig_of_le {a : VReg} {s : State} (hk : s.larg0.toNat ≤ s.params.limbDigits) :
    exec (.lowdig a) s =
      .next ((s.setResult (BitVec.ofNat 64 (lowDigits (s.V a) s.larg0.toNat))).finish .none) := by
  have hcount : s.argDigitCount = .ok s.larg0.toNat := if_neg (Nat.not_lt.2 hk)
  rw [exec, execLowdig, hcount]
  rfl

theorem exec_lowdig_of_gt {a : VReg} {s : State} (hk : s.params.limbDigits < s.larg0.toNat) :
    exec (.lowdig a) s = .next (s.finish .illegalOperand) := by
  have hcount : s.argDigitCount = .error .illegalOperand := if_pos hk
  rw [exec, execLowdig, hcount]
  rfl

/-- Settles O33: the digits of the lowest limb are those of the value, and they fit RESULT unchanged. -/
theorem lowdigReportsTheLowDigits : Obligations.LowdigReportsTheLowDigits := by
  intro a s _
  refine ⟨fun w => ?_, fun hk => ⟨_, exec_lowdig_of_le hk, ?_, rfl⟩, exec_lowdig_of_gt⟩
  · rw [decode_ok_iff_of_wf rfl, encode_lowdig]
  · calc (BitVec.ofNat 64 (lowDigits (s.V a) s.larg0.toNat)).toNat
        = lowDigits (s.V a) s.larg0.toNat % 2 ^ 64 := BitVec.toNat_ofNat _ _
      _ = lowDigits (s.V a) s.larg0.toNat := Nat.mod_eq_of_lt (lowDigits_lt _ _)
      _ = s.valV a % 10 ^ s.larg0.toNat := lowDigits_eq_val_mod _ hk

/-! ## VCONST and then DECSTR (R144) -/

/-- Settles O35: VCONST leaves a sound state whose register has the constant's value, and DECSTR spells that value. -/
theorem constantThenDecimalStringRoundTrips : Obligations.ConstantThenDecimalStringRoundTrips := by
  intro d x s hs hx
  have hsx : State.Sound { s with larg0 := x } := ⟨hs.params_wf, hs.canonical⟩
  have hconst := storeNumber_of_fits hsx d hx
  have ht := hsx.setV_finish d (canonicalBig_canon hs.params_wf hx)
  obtain ⟨-, u, hu, htext, -, hframe⟩ := decstrSpellsTheValueInDecimal d _ ht
  refine ⟨_, u, hconst, rfl, hu, congrArg State.errcode hframe, htext.trans ?_⟩
  exact congrArg (Nat.toDigits 10) (valV_setV_canon hsx d x.toNat)

end Sys2Proof.Machine
end

section
/-!
PROOF. The loop of R163 by itself: it stops within bitlen(e) iterations, and with a counter it computes popcount(e) folds
and bitlen(e) squarings (R164).
-/

namespace Sys2Proof.Machine

/-! ## The bits of the exponent (R163, R164) -/

theorem bitlen_le_iff (x k : Nat) : bitlen x ≤ k ↔ x < 2 ^ k := by
  unfold bitlen
  split
  case isTrue h => simp [h]
  case isFalse h => rw [Nat.succ_le_iff, Nat.log2_lt h]

/-- The shift takes one bit off a number that is not 0. -/
theorem bitlen_eq_succ {x : Nat} (hx : x ≠ 0) : bitlen x = bitlen (x / 2) + 1 := by
  have hiff (k : Nat) : bitlen x ≤ k + 1 ↔ bitlen (x / 2) ≤ k := by
    rw [bitlen_le_iff, bitlen_le_iff, pow_succ]
    omega
  have hpos : bitlen x ≠ 0 := fun h => hx (by simpa using (bitlen_le_iff x 0).1 h.le)
  have hle := (hiff (bitlen x - 1)).1 (by omega)
  have hge := (hiff (bitlen (x / 2))).2 le_rfl
  omega

theorem bitlen_word_le (e : Word) : bitlen e.toNat ≤ 64 := (bitlen_le_iff _ _).2 e.isLt

theorem toNat_shift_one (e : Word) : (e >>> 1).toNat = e.toNat / 2 := by
  rw [BitVec.toNat_ushiftRight, Nat.shiftRight_one]

theorem toNat_ne_zero {e : Word} (he : e ≠ 0) : e.toNat ≠ 0 := fun h => he (BitVec.eq_of_toNat_eq h)

/-- The loop's shift takes one bit off E while E is not 0. -/
theorem bitlen_shift {e : Word} (he : e ≠ 0) : bitlen e.toNat = bitlen (e >>> 1).toNat + 1 := by
  rw [toNat_shift_one, bitlen_eq_succ (toNat_ne_zero he)]

/-- The loop's shift drops E[0] and brings a 0 in at the top. -/
theorem popcount_shift (e : Word) : popcount e = (e.getLsbD 0).toNat + popcount (e >>> 1) := by
  have hlow : popcount e = (List.range 63).countP (fun i => e.getLsbD (i + 1)) + (e.getLsbD 0).toNat := by
    rw [popcount, List.range_succ_eq_map, List.countP_cons, List.countP_map]
    cases e.getLsbD 0 <;> rfl
  have hhigh : popcount (e >>> 1) = (List.range 63).countP (fun i => e.getLsbD (i + 1)) := by
    have hshift : (e >>> 1).getLsbD = fun i => e.getLsbD (i + 1) := by
      funext i
      rw [BitVec.getLsbD_ushiftRight, Nat.add_comm]
    have htop : e.getLsbD (63 + 1) = false := BitVec.getLsbD_of_ge e 64 le_rfl
    rw [popcount, hshift, List.range_succ, List.countP_append, List.countP_singleton, htop]
    rfl
  omega

theorem popcount_le (e : Word) : popcount e ≤ 64 := List.countP_le_length.trans (List.length_range).le

/-! ## The loop stops (R163) -/

theorem powLoop_exponent_zero (p : Config.Params) (t : LCtrl) (fuel : Nat) (acc base : Mat BigUint) :
    powLoop p t fuel acc base 0 = .ok acc := by
  cases fuel with
  | zero => rfl
  | succ n => exact if_pos rfl

/-- Any two bounds that E's bits allow give the same result. -/
theorem powLoop_eq_of_bitlen_le (p : Config.Params) (t : LCtrl) :
    ∀ (m n : Nat) (acc base : Mat BigUint) (e : Word), bitlen e.toNat ≤ m → bitlen e.toNat ≤ n →
      powLoop p t m acc base e = powLoop p t n acc base e := by
  intro m
  induction m with
  | zero =>
    intro n acc base e hm _
    have he : e = 0 := BitVec.eq_of_toNat_eq (Nat.lt_one_iff.1 ((bitlen_le_iff _ 0).1 hm))
    rw [he, powLoop_exponent_zero, powLoop_exponent_zero]
  | succ m ih =>
    intro n acc base e hm hn
    by_cases he : e = 0
    · rw [he, powLoop_exponent_zero, powLoop_exponent_zero]
    · have hbits := bitlen_shift he
      obtain ⟨n, rfl⟩ : ∃ k, n = k + 1 := ⟨n - 1, by omega⟩
      rw [powLoop_succ p t m acc base he, powLoop_succ p t n acc base he]
      simp only [ih n _ _ (e >>> 1) (by omega) (by omega)]

/-- Settles O40: 64 iterations are a bound that every exponent's bits allow. -/
theorem powLoopStopsWithinBitlen : Obligations.PowLoopStopsWithinBitlen :=
  fun p l A X e fuel hfuel => powLoop_eq_of_bitlen_le p l fuel 64 A X e hfuel (bitlen_word_le e)

/-! ## The loop with a counter (R164) -/

/-- One fold more where E[0] = 1. -/
def ProductCount.addFold (n : ProductCount) (bit : Bool) : ProductCount := { n with folds := n.folds + bit.toNat }

/-- One squaring more. -/
def ProductCount.addSquaring (n : ProductCount) : ProductCount := { n with squarings := n.squarings + 1 }

/-- ACC after the fold of R163, which E[0] decides. -/
def foldAcc (p : Config.Params) (t : LCtrl) (bit : Bool) (acc base : Mat BigUint) : Except ErrCode (Mat BigUint) :=
  if bit then store p t (engineProduct p acc base) else .ok acc

/-- The fold of the counting loop: counted where it is computed, whether or not it fits. -/
theorem countedFold_eq (p : Config.Params) (t : LCtrl) (n : ProductCount) (bit : Bool) (acc base : Mat BigUint) :
    (if bit then countedFold p t n acc base else (n, .ok acc)) = (n.addFold bit, foldAcc p t bit acc base) := by
  cases bit <;> rfl

theorem countedSquare_eq (p : Config.Params) (t : LCtrl) (n : ProductCount) (base : Mat BigUint) :
    countedSquare p t n base = (n.addSquaring, store p t (engineProduct p base base)) := rfl

/-- Everything an iteration of the counting loop can do while E is not 0, next to what the loop itself does: the fold
does not fit, the square does not fit, or both are stored and the loop goes on. -/
theorem powLoopCounted_succ_cases (p : Config.Params) (t : LCtrl) (fuel : Nat) (n : ProductCount)
    (acc base : Mat BigUint) {e : Word} (he : e ≠ 0) :
    (∃ c, powLoopCounted p t (fuel + 1) n acc base e = (n.addFold (e.getLsbD 0), .error c) ∧
      powLoop p t (fuel + 1) acc base e = .error c) ∨
    (∃ c, powLoopCounted p t (fuel + 1) n acc base e = ((n.addFold (e.getLsbD 0)).addSquaring, .error c) ∧
      powLoop p t (fuel + 1) acc base e = .error c) ∨
    (∃ acc' base',
      powLoopCounted p t (fuel + 1) n acc base e =
        powLoopCounted p t fuel (n.addFold (e.getLsbD 0)).addSquaring acc' base' (e >>> 1) ∧
      powLoop p t (fuel + 1) acc base e = powLoop p t fuel acc' base' (e >>> 1)) := by
  have hloop : powLoop p t (fuel + 1) acc base e =
      foldAcc p t (e.getLsbD 0) acc base >>= fun acc' =>
        store p t (engineProduct p base base) >>= fun base' => powLoop p t fuel acc' base' (e >>> 1) :=
    powLoop_succ p t fuel acc base he
  rw [powLoopCounted, if_neg he, countedFold_eq, hloop]
  cases foldAcc p t (e.getLsbD 0) acc base with
  | error c => exact .inl ⟨c, rfl, rfl⟩
  | ok acc' =>
    simp only [countedSquare_eq]
    cases store p t (engineProduct p base base) with
    | error c => exact .inr (.inl ⟨c, rfl, rfl⟩)
    | ok base' => exact .inr (.inr ⟨acc', base', rfl, rfl⟩)

theorem powLoopCounted_exponent_zero (p : Config.Params) (t : LCtrl) (fuel : Nat) (n : ProductCount)
    (acc base : Mat BigUint) : powLoopCounted p t fuel n acc base 0 = (n, .ok acc) := by
  cases fuel with
  | zero => rfl
  | succ _ => exact if_pos rfl

/-- The counter does not change the loop's result. -/
theorem powLoopCounted_result (p : Config.Params) (t : LCtrl) :
    ∀ (fuel : Nat) (n : ProductCount) (acc base : Mat BigUint) (e : Word),
      (powLoopCounted p t fuel n acc base e).2 = powLoop p t fuel acc base e := by
  intro fuel
  induction fuel with
  | zero => intros; rfl
  | succ fuel ih =>
    intro n acc base e
    by_cases he : e = 0
    · rw [he, powLoopCounted_exponent_zero, powLoop_exponent_zero]
    · rcases powLoopCounted_succ_cases p t fuel n acc base he with ⟨c, hcount, hloop⟩ | ⟨c, hcount, hloop⟩ |
        ⟨acc', base', hcount, hloop⟩
      · rw [hcount, hloop]
      · rw [hcount, hloop]
      · rw [hcount, hloop, ih]

/-- The loop never computes more than one fold per set bit and one squaring per bit of E. -/
theorem powLoopCounted_le (p : Config.Params) (t : LCtrl) :
    ∀ (fuel : Nat) (n : ProductCount) (acc base : Mat BigUint) (e : Word),
      (powLoopCounted p t fuel n acc base e).1.folds ≤ n.folds + popcount e ∧
        (powLoopCounted p t fuel n acc base e).1.squarings ≤ n.squarings + bitlen e.toNat := by
  intro fuel
  induction fuel with
  | zero => exact fun n _ _ e => ⟨Nat.le_add_right _ _, Nat.le_add_right _ _⟩
  | succ fuel ih =>
    intro n acc base e
    by_cases he : e = 0
    · rw [he, powLoopCounted_exponent_zero]
      exact ⟨Nat.le_add_right _ _, Nat.le_add_right _ _⟩
    · have hpop := popcount_shift e
      have hbits := bitlen_shift he
      rcases powLoopCounted_succ_cases p t fuel n acc base he with ⟨c, hcount, -⟩ | ⟨c, hcount, -⟩ |
        ⟨acc', base', hcount, -⟩
      · rw [hcount]
        simp only [ProductCount.addFold]
        omega
      · rw [hcount]
        simp only [ProductCount.addFold, ProductCount.addSquaring]
        omega
      · have hrest := ih (n.addFold (e.getLsbD 0)).addSquaring acc' base' (e >>> 1)
        rw [hcount]
        simp only [ProductCount.addFold, ProductCount.addSquaring] at hrest ⊢
        omega

/-- Where the loop succeeds it has computed one fold per set bit and one squaring per bit of E. -/
theorem powLoopCounted_of_ok (p : Config.Params) (t : LCtrl) {P : Mat BigUint} :
    ∀ (fuel : Nat) (n : ProductCount) (acc base : Mat BigUint) (e : Word), bitlen e.toNat ≤ fuel →
      powLoop p t fuel acc base e = .ok P →
      (powLoopCounted p t fuel n acc base e).1 =
        { folds := n.folds + popcount e, squarings := n.squarings + bitlen e.toNat } := by
  have hzero (fuel : Nat) (n : ProductCount) (acc base : Mat BigUint) :
      (powLoopCounted p t fuel n acc base 0).1 =
        { folds := n.folds + popcount 0, squarings := n.squarings + bitlen (0 : Word).toNat } := by
    rw [powLoopCounted_exponent_zero]
    rfl
  intro fuel
  induction fuel with
  | zero =>
    intro n acc base e hfuel _
    have he : e = 0 := BitVec.eq_of_toNat_eq (Nat.lt_one_iff.1 ((bitlen_le_iff _ 0).1 hfuel))
    rw [he, hzero]
  | succ fuel ih =>
    intro n acc base e hfuel hok
    by_cases he : e = 0
    · rw [he, hzero]
    · have hpop := popcount_shift e
      have hbits := bitlen_shift he
      rcases powLoopCounted_succ_cases p t fuel n acc base he with ⟨c, -, hloop⟩ | ⟨c, -, hloop⟩ |
        ⟨acc', base', hcount, hloop⟩
      · cases hloop.symm.trans hok
      · cases hloop.symm.trans hok
      · rw [hcount, ih _ acc' base' (e >>> 1) (by omega) (hloop.symm.trans hok)]
        simp only [ProductCount.addFold, ProductCount.addSquaring, ProductCount.mk.injEq]
        omega

/-- Settles O39: the counting loop's result, exact counts and bounds, from a counter at 0. -/
theorem powLoopProductCount : Obligations.PowLoopProductCount := by
  intro p l X e
  have hle := powLoopCounted_le p l 64 { folds := 0, squarings := 0 } matI X e
  simp only [Nat.zero_add] at hle
  obtain ⟨hfolds, hsquarings⟩ := hle
  refine ⟨fun fuel n A => powLoopCounted_result p l fuel n A X e, fun P hP => ?_, hfolds, hsquarings, ?_⟩
  · exact (powLoopCounted_of_ok p l 64 _ matI X e (bitlen_word_le e) hP).trans (by simp only [Nat.zero_add])
  · calc (powProducts p l X e).total ≤ popcount e + bitlen e.toNat := Nat.add_le_add hfolds hsquarings
      _ ≤ 64 + 64 := Nat.add_le_add (popcount_le e) (bitlen_word_le e)

end Sys2Proof.Machine
end

section
/-!
PROOF. The truncation setting of MPOW and FIB (R166, R167): an illegal count ends with BAD_CONFIG where truncation is
on, and the count is not looked at where it is off.
-/

namespace Sys2Proof.Machine

/-! ## The check of R167 -/

theorem checkTrunc_of_not_legal {s : State} (h : ¬s.truncLegal) :
    checkTrunc s.params s.lctrl = .error .badConfig := by
  rcases checkTrunc_cases s with ⟨hlegal, -⟩ | ⟨-, hbad⟩
  · exact absurd hlegal h
  · exact hbad

theorem checkTrunc_of_legal {s : State} (h : s.truncLegal) : checkTrunc s.params s.lctrl = .ok () := by
  rcases checkTrunc_cases s with ⟨-, hok⟩ | ⟨hbad, -⟩
  · exact hok
  · exact absurd h hbad

/-- An MPOW that spells a command: the check, then the loop (R162). -/
theorem exec_mpow_of_wf {d a : MReg} (hwf : (Instr.mpow d a).wf = true) (s : State) :
    exec (.mpow d a) s = s.drawWork.complete do
      checkTrunc s.params s.lctrl
      let P ← powMat s.params s.lctrl (s.M a) s.argExponent
      return s.drawWork.setM d P :=
  if_pos hwf

theorem exec_mpow_of_not_legal {d a : MReg} {s : State} (hwf : (Instr.mpow d a).wf = true) (h : ¬s.truncLegal) :
    exec (.mpow d a) s = .next (s.drawWork.finish .badConfig) := by
  rw [exec_mpow_of_wf hwf, checkTrunc_of_not_legal h]
  rfl

theorem exec_mpow_of_legal {d a : MReg} {s : State} (hwf : (Instr.mpow d a).wf = true) (h : s.truncLegal) :
    exec (.mpow d a) s = s.drawWork.complete do
      let P ← powMat s.params s.lctrl (s.M a) s.argExponent
      return s.drawWork.setM d P := by
  rw [exec_mpow_of_wf hwf, checkTrunc_of_legal h]
  rfl

theorem exec_fib_of_not_legal {d : VReg} {s : State} (h : ¬s.truncLegal) :
    exec (.fib d) s = .next (s.drawWork.finish .badConfig) := by
  rw [exec, execFib, checkTrunc_of_not_legal h]
  rfl

/-- FIB with a legal setting: the index check, the number, then its store (R180). -/
theorem exec_fib_of_legal {d : VReg} {s : State} (h : s.truncLegal) :
    exec (.fib d) s = s.drawWork.complete do
      let n ← s.argIndex
      let x ← fibNumber s.params s.lctrl n
      let L ← fit s.params (canon s.radix x)
      return s.drawWork.setV d L := by
  rw [exec, execFib, checkTrunc_of_legal h]
  rfl

/-- Settles O18: the check of R167 comes before any other work. -/
theorem badTruncationSettingEndsWithBadConfig : Obligations.BadTruncationSettingEndsWithBadConfig := by
  intro s hen hK
  have hnot : ¬s.truncLegal := by
    intro h
    have := h hen
    omega
  exact ⟨fun d a hwf => ⟨_, exec_mpow_of_not_legal hwf hnot, rfl, rfl⟩,
    fun d => ⟨_, exec_fib_of_not_legal hnot, rfl, rfl⟩⟩

/-! ## Which checks can raise BAD_CONFIG (R200) -/

/-- A sequence of two checks raises only what one of them raises. -/
theorem bind_ne_error {α β : Type} {c : ErrCode} {x : Except ErrCode α} {f : α → Except ErrCode β}
    (hx : x ≠ .error c) (hf : ∀ a, f a ≠ .error c) : (x >>= f) ≠ .error c := by
  cases x with
  | ok a => exact hf a
  | error c' => exact fun h => hx (congrArg Except.error (Except.error.inj h))

theorem ok_ne_error {α : Type} {c : ErrCode} (a : α) : (.ok a : Except ErrCode α) ≠ .error c := nofun

theorem fit_ne_badConfig (p : Config.Params) (L : BigUint) : fit p L ≠ .error .badConfig := by
  rcases fit_cases p L with ⟨-, h⟩ | ⟨-, h⟩ <;> rw [h] <;> exact nofun

theorem fitMat_ne_badConfig (p : Config.Params) (R : Mat BigUint) : fitMat p R ≠ .error .badConfig := by
  rcases fitMat_cases p R with ⟨-, h⟩ | ⟨-, h⟩ <;> rw [h] <;> exact nofun

theorem argLimb_ne_badConfig (s : State) : s.argLimb ≠ .error .badConfig := by
  rcases argLimb_cases s with ⟨-, h⟩ | ⟨-, h⟩ <;> rw [h] <;> exact nofun

theorem argIndex_ne_badConfig (s : State) : s.argIndex ≠ .error .badConfig := by
  rcases argIndex_cases s with ⟨-, h⟩ | ⟨-, h⟩ <;> rw [h] <;> exact nofun

theorem argDigitCount_ne_badConfig (s : State) : s.argDigitCount ≠ .error .badConfig := by
  rcases argDigitCount_cases s with ⟨-, h⟩ | ⟨-, h⟩ <;> rw [h] <;> exact nofun

/-- A number checked and stored, as at the end of VCONST, VLIMBIN, VADD, VMUL and FIB. -/
theorem fit_setV_ne_badConfig (p : Config.Params) (L : BigUint) (d : VReg) (s : State) :
    (do let M ← fit p L; return s.setV d M) ≠ Except.error ErrCode.badConfig :=
  bind_ne_error (fit_ne_badConfig p L) fun _ => ok_ne_error _

/-- The loop raises only what `Store` raises (R168). -/
theorem powLoop_ne_badConfig (p : Config.Params) (t : LCtrl) :
    ∀ (fuel : Nat) (acc base : Mat BigUint) (e : Word), powLoop p t fuel acc base e ≠ .error .badConfig := by
  intro fuel
  induction fuel with
  | zero => exact fun acc _ _ => ok_ne_error acc
  | succ n ih =>
    intro acc base e
    by_cases he : e = 0
    · rw [he, powLoop_exponent_zero]
      exact ok_ne_error acc
    · rw [powLoop_succ p t n acc base he]
      refine bind_ne_error ?_ fun acc' => bind_ne_error (fitMat_ne_badConfig p _) fun base' => ih acc' base' _
      split
      · exact fitMat_ne_badConfig p _
      · exact ok_ne_error acc

theorem fibNumber_ne_badConfig (p : Config.Params) (t : LCtrl) (n : Int) : fibNumber p t n ≠ .error .badConfig := by
  unfold fibNumber
  split
  · exact ok_ne_error 1
  · exact bind_ne_error (powLoop_ne_badConfig p t 64 matI matQ _) fun _ => ok_ne_error _

/-- A completion shows BAD_CONFIG only where its checks raise it. -/
theorem complete_ne_badConfig {u t : State} {r : Except ErrCode State} (h : u.complete r = .next t)
    (hr : r ≠ .error .badConfig) : t.errcode ≠ .badConfig := by
  rcases complete_cases u r with ⟨w, -, hc⟩ | ⟨c, rfl, hc⟩
  · cases hc.symm.trans h
    exact nofun
  · cases hc.symm.trans h
    exact fun hbad => hr (congrArg Except.error hbad)

/-- Under a legal setting no command ends with BAD_CONFIG (R167). -/
theorem exec_ne_badConfig {i : Instr} {s t : State} (hlegal : s.truncLegal) (h : exec i s = .next t) :
    t.errcode ≠ .badConfig := by
  by_cases hwf : i.wf = true
  case neg =>
    cases (exec_of_not_wf (eq_false_of_ne_true hwf) s).symm.trans h
    exact nofun
  cases i with
  | nop | vzero _ | vmov _ _ | decstr _ =>
    cases h
    exact nofun
  | vconst d | vadd d _ _ | vmul d _ _ => exact complete_ne_badConfig h (fit_setV_ne_badConfig s.params _ d s)
  | vlimbin d =>
    exact complete_ne_badConfig h <|
      bind_ne_error (argLimb_ne_badConfig s) fun _ => fit_setV_ne_badConfig s.params _ d s
  | lowdig a =>
    exact complete_ne_badConfig h <| bind_ne_error (argDigitCount_ne_badConfig s) fun _ => ok_ne_error _
  | mmul d a b =>
    exact complete_ne_badConfig ((if_pos hwf).symm.trans h) <|
      bind_ne_error (fitMat_ne_badConfig s.params _) fun _ => ok_ne_error _
  | mpow d a =>
    exact complete_ne_badConfig ((exec_mpow_of_legal hwf hlegal).symm.trans h) <|
      bind_ne_error (powLoop_ne_badConfig s.params s.lctrl 64 matI _ _) fun _ => ok_ne_error _
  | fib d =>
    exact complete_ne_badConfig ((exec_fib_of_legal hlegal).symm.trans h) <|
      bind_ne_error (argIndex_ne_badConfig s) fun n => bind_ne_error (fibNumber_ne_badConfig s.params s.lctrl n)
        fun _ => fit_setV_ne_badConfig s.params _ d s.drawWork

/-! ## Truncation off (R166) -/

theorem truncLegal_of_off {s : State} (h : s.lctrl.truncEn = false) : s.truncLegal :=
  fun hen => absurd (h.symm.trans hen) (by decide)

theorem truncValue_of_off (B : Nat) {t : LCtrl} (h : t.truncEn = false) (x : Nat) : truncValue B t x = x := by
  simp [truncValue, h]

section
variable {t u : LCtrl} (ht : t.truncEn = false) (hu : u.truncEn = false)
include ht hu

theorem store_eq_of_off (p : Config.Params) (X : Mat Nat) : store p t X = store p u X := by
  simp only [store, truncMat, truncValue_of_off _ ht, truncValue_of_off _ hu]

/-- The loop sees the setting through `Store` alone. -/
theorem powLoop_eq_of_off (p : Config.Params) :
    ∀ (fuel : Nat) (acc base : Mat BigUint) (e : Word), powLoop p t fuel acc base e = powLoop p u fuel acc base e := by
  intro fuel
  induction fuel with
  | zero => intros; rfl
  | succ n ih =>
    intro acc base e
    by_cases he : e = 0
    · rw [he, powLoop_exponent_zero, powLoop_exponent_zero]
    · simp only [powLoop_succ _ _ n acc base he, store_eq_of_off ht hu, ih]

theorem powMat_eq_of_off (p : Config.Params) (X : Mat BigUint) (e : Word) : powMat p t X e = powMat p u X e :=
  powLoop_eq_of_off ht hu p 64 matI X e

theorem fibNumber_eq_of_off (p : Config.Params) (n : Int) : fibNumber p t n = fibNumber p u n := by
  simp only [fibNumber, powMat_eq_of_off ht hu, truncValue_of_off _ ht, truncValue_of_off _ hu]

end

theorem sameButLCtrl_exec_mpow {l : LCtrl} {s : State} (hs : s.lctrl.truncEn = false) (hl : l.truncEn = false)
    (d a : MReg) : SameButLCtrl l (exec (.mpow d a) s) (exec (.mpow d a) (s.withLCtrl l)) := by
  by_cases hwf : (Instr.mpow d a).wf = true
  case neg =>
    have hno := eq_false_of_ne_true hwf
    exact ⟨_, exec_of_not_wf hno s, exec_of_not_wf hno (s.withLCtrl l)⟩
  have hlegal : (s.withLCtrl l).truncLegal := truncLegal_of_off hl
  have hpow : powMat (s.withLCtrl l).params (s.withLCtrl l).lctrl ((s.withLCtrl l).M a) (s.withLCtrl l).argExponent =
      powMat s.params s.lctrl (s.M a) s.argExponent := powMat_eq_of_off hl hs s.params (s.M a) s.larg0
  rw [exec_mpow_of_legal hwf (truncLegal_of_off hs), exec_mpow_of_legal hwf hlegal, hpow]
  exact sameButLCtrl_bind l s.drawWork _ fun P => sameButLCtrl_ok l s.drawWork (s.drawWork.setM d P)

theorem sameButLCtrl_exec_fib {l : LCtrl} {s : State} (hs : s.lctrl.truncEn = false) (hl : l.truncEn = false)
    (d : VReg) : SameButLCtrl l (exec (.fib d) s) (exec (.fib d) (s.withLCtrl l)) := by
  have hlegal : (s.withLCtrl l).truncLegal := truncLegal_of_off hl
  have hnumber : fibNumber (s.withLCtrl l).params (s.withLCtrl l).lctrl = fibNumber s.params s.lctrl :=
    funext (fibNumber_eq_of_off hl hs s.params)
  rw [exec_fib_of_legal (truncLegal_of_off hs), exec_fib_of_legal hlegal, hnumber]
  exact sameButLCtrl_bind l s.drawWork s.argIndex fun n =>
    sameButLCtrl_bind l s.drawWork (fibNumber s.params s.lctrl n) fun x =>
      sameButLCtrl_fit_setV l s.drawWork s.params (canon s.radix x) d

/-- Where truncation is off, before and after, a command completes alike under any setting. -/
theorem sameButLCtrl_exec {l : LCtrl} {s : State} (hs : s.lctrl.truncEn = false) (hl : l.truncEn = false)
    (i : Instr) : SameButLCtrl l (exec i s) (exec i (s.withLCtrl l)) := by
  cases i with
  | mpow d a => exact sameButLCtrl_exec_mpow hs hl d a
  | fib d => exact sameButLCtrl_exec_fib hs hl d
  | _ => exact truncationSettingMattersOnlyToMpowAndFib _ s l nofun nofun

/-- Settles O14: with truncation off the setting is legal whatever the count, and the loop never looks at it. -/
theorem truncationCountIsNotCheckedWhenTruncationIsOff :
    Obligations.TruncationCountIsNotCheckedWhenTruncationIsOff := by
  intro i s k hoff
  obtain ⟨t, hs, hk⟩ := sameButLCtrl_exec (l := { s.lctrl with truncLimbs := k }) hoff hoff i
  exact ⟨t, hs, exec_ne_badConfig (truncLegal_of_off hoff) hs, hk⟩

end Sys2Proof.Machine
end

section
/-!
PROOF. The values of the matrix commands and of a truncated FIB (R160 to R168, R180): the algebra of matrix powers, what
`Store` keeps, what the loop of R163 computes for every truncation setting, and the commands on top of it.
-/

namespace Sys2Proof.Machine

open Sys2Proof.Config

/-! ## Matrix powers (R161, R165) -/

theorem matMul_assoc (X Y Z : Mat Nat) : matMul (matMul X Y) Z = matMul X (matMul Y Z) := by
  simp only [matMul, Mat.mk.injEq]
  refine ⟨?_, ?_, ?_, ?_⟩ <;> ring

theorem natI_matMul (X : Mat Nat) : matMul natI X = X := by simp [matMul, natI]

theorem matMul_natI (X : Mat Nat) : matMul X natI = X := by simp [matMul, natI]

theorem matPow_one (X : Mat Nat) : matPow X 1 = X := natI_matMul X

theorem matPow_add (X : Mat Nat) (m n : Nat) : matPow X (m + n) = matMul (matPow X m) (matPow X n) := by
  induction n with
  | zero => exact (matMul_natI _).symm
  | succ n ih => rw [← Nat.add_assoc, matPow, ih, matMul_assoc, matPow]

theorem matPow_two (X : Mat Nat) : matPow X 2 = matMul X X := congrArg (matMul · X) (matPow_one X)

theorem matPow_two_mul (X : Mat Nat) (n : Nat) : matPow X (2 * n) = matPow (matMul X X) n := by
  induction n with
  | zero => rfl
  | succ n ih => rw [Nat.mul_succ, matPow_add, ih, matPow_two, matPow]

/-- An exponent's lowest bit and the rest, as the loop of R163 takes them apart. -/
theorem matMul_matPow_bit (A Y : Mat Nat) (b n : Nat) :
    matMul A (matPow Y (b + 2 * n)) = matMul (matMul A (matPow Y b)) (matPow (matMul Y Y) n) := by
  rw [matPow_add, matPow_two_mul, matMul_assoc]

/-! ## What `Store` keeps (R166, R168) -/

/-- `Trunc(X)` over natural numbers (R166). -/
def truncNat (B : Nat) (t : LCtrl) (X : Mat Nat) : Mat Nat := X.map (truncValue B t)

/-- The cells in canonical form (R10). -/
def canonMat (B : Nat) (X : Mat Nat) : Mat BigUint := X.map (canon B)

theorem truncMat_eq_canonMat (B : Nat) (t : LCtrl) (X : Mat Nat) :
    truncMat B t X = canonMat B (truncNat B t X) := rfl

/-- Truncation off is no truncation. -/
theorem truncNat_of_off (B : Nat) {t : LCtrl} (h : t.truncEn = false) (X : Mat Nat) : truncNat B t X = X := by
  simp only [truncNat, Mat.map, truncValue_of_off B h]

theorem truncValue_of_on (B : Nat) {t : LCtrl} (h : t.truncEn = true) (x : Nat) :
    truncValue B t x = x % B ^ t.truncLimbs.toNat :=
  if_pos h

theorem truncNat_of_on (B : Nat) {t : LCtrl} (h : t.truncEn = true) (X : Mat Nat) :
    truncNat B t X = X.map (· % B ^ t.truncLimbs.toNat) := by
  simp only [truncNat, Mat.map, truncValue_of_on B h]

theorem truncValue_idem (B : Nat) (t : LCtrl) (x : Nat) : truncValue B t (truncValue B t x) = truncValue B t x := by
  cases h : t.truncEn
  · rw [truncValue_of_off B h]
  · simp only [truncValue_of_on B h, Nat.mod_mod]

theorem truncNat_idem (B : Nat) (t : LCtrl) (X : Mat Nat) : truncNat B t (truncNat B t X) = truncNat B t X := by
  simp only [truncNat, Mat.map, truncValue_idem]

/-- Truncation may be left to the end of a cell of a product: reduction modulo B^K is a congruence. -/
theorem truncValue_cell_congr {B : Nat} {t : LCtrl} {a b c d a' b' c' d' : Nat}
    (ha : truncValue B t a = truncValue B t a') (hb : truncValue B t b = truncValue B t b')
    (hc : truncValue B t c = truncValue B t c') (hd : truncValue B t d = truncValue B t d') :
    truncValue B t (a * b + c * d) = truncValue B t (a' * b' + c' * d') := by
  cases h : t.truncEn
  · simp only [truncValue_of_off B h] at *
    rw [ha, hb, hc, hd]
  · simp only [truncValue_of_on B h] at *
    exact Nat.ModEq.add (Nat.ModEq.mul ha hb) (Nat.ModEq.mul hc hd)

/-- Truncation may be left to the end of a matrix product (R166). -/
theorem truncNat_matMul_congr {B : Nat} {t : LCtrl} {X X' Y Y' : Mat Nat} (hX : truncNat B t X = truncNat B t X')
    (hY : truncNat B t Y = truncNat B t Y') : truncNat B t (matMul X Y) = truncNat B t (matMul X' Y') := by
  simp only [truncNat, Mat.map, Mat.mk.injEq] at hX hY
  obtain ⟨hX00, hX01, hX10, hX11⟩ := hX
  obtain ⟨hY00, hY01, hY10, hY11⟩ := hY
  simp only [truncNat, Mat.map, matMul, Mat.mk.injEq]
  exact ⟨truncValue_cell_congr hX00 hY00 hX01 hY10, truncValue_cell_congr hX00 hY01 hX01 hY11,
    truncValue_cell_congr hX10 hY00 hX11 hY10, truncValue_cell_congr hX10 hY01 hX11 hY11⟩

section
variable {p : Params} (hp : p.wf = true)
include hp

/-- The capacity check of a matrix in canonical form looks at its values alone (R160, R168). -/
theorem fitsIn_iff_lengths (X : Mat Nat) :
    X.fitsIn p ↔ (canonMat p.radix X).c00.length ≤ p.maxLimbs ∧ (canonMat p.radix X).c01.length ≤ p.maxLimbs ∧
      (canonMat p.radix X).c10.length ≤ p.maxLimbs ∧ (canonMat p.radix X).c11.length ≤ p.maxLimbs := by
  simp only [canonMat, Mat.map, canon_length_le_iff_of_wf hp, Mat.fitsIn]

theorem fitMat_of_fits {X : Mat Nat} (hX : X.fitsIn p) :
    fitMat p (canonMat p.radix X) = .ok (canonMat p.radix X) := by
  rcases fitMat_cases p (canonMat p.radix X) with ⟨-, h⟩ | ⟨hno, -⟩
  · exact h
  · exact absurd ((fitsIn_iff_lengths hp X).1 hX) hno

theorem fitMat_of_not_fits {X : Mat Nat} (hX : ¬X.fitsIn p) :
    fitMat p (canonMat p.radix X) = .error .capacity := by
  rcases fitMat_cases p (canonMat p.radix X) with ⟨hlen, -⟩ | ⟨-, h⟩
  · exact absurd ((fitsIn_iff_lengths hp X).2 hlen) hX
  · exact h

theorem engineProduct_canonMat (X Y : Mat Nat) :
    engineProduct p (canonMat p.radix X) (canonMat p.radix Y) = matMul X Y := by
  simp only [engineProduct, canonMat, val_canon_cell hp]

end

/-- `Store` depends on the truncated values alone (R168). -/
theorem store_congr (p : Params) {t : LCtrl} {X Y : Mat Nat} (h : truncNat p.radix t X = truncNat p.radix t Y) :
    store p t X = store p t Y := by
  simp only [store, truncMat_eq_canonMat, h]

theorem store_of_fits {p : Params} (hp : p.wf = true) {t : LCtrl} {X : Mat Nat}
    (hX : (truncNat p.radix t X).fitsIn p) : store p t X = .ok (canonMat p.radix (truncNat p.radix t X)) :=
  fitMat_of_fits hp hX

theorem store_of_not_fits {p : Params} (hp : p.wf = true) {t : LCtrl} {X : Mat Nat}
    (hX : ¬(truncNat p.radix t X).fitsIn p) : store p t X = .error .capacity :=
  fitMat_of_not_fits hp hX

/-! ## What the loop computes (R163, R165) -/

/-- What the loop stores from the values A in ACC and Y in BASE fits, iteration by iteration: the i-th stores Y^(2^i) and
A · Y^(e mod 2^i), both truncated. -/
def LoopFits (p : Params) (t : LCtrl) (A Y : Mat Nat) (e : Nat) : Prop :=
  ∀ i, 1 ≤ i → i ≤ bitlen e → (truncNat p.radix t (matPow Y (2 ^ i))).fitsIn p ∧
    (truncNat p.radix t (matMul A (matPow Y (e % 2 ^ i)))).fitsIn p

theorem mod_two_pow_succ (e i : Nat) : e % 2 ^ (i + 1) = e % 2 + 2 * (e / 2 % 2 ^ i) := by
  rw [pow_succ', Nat.mod_mul]

/-- The first iteration's products, and those of the iterations after it. -/
theorem loopFits_iff (p : Params) (t : LCtrl) (A Y : Mat Nat) {e : Nat} (he : e ≠ 0) :
    LoopFits p t A Y e ↔
      (truncNat p.radix t (matMul A (matPow Y (e % 2)))).fitsIn p ∧ (truncNat p.radix t (matMul Y Y)).fitsIn p ∧
        LoopFits p t (matMul A (matPow Y (e % 2))) (matMul Y Y) (e / 2) := by
  have hbits := bitlen_eq_succ he
  have hsquare : matPow Y (2 ^ 1) = matMul Y Y := matPow_two Y
  have hbase (i : Nat) : matPow Y (2 ^ (i + 1)) = matPow (matMul Y Y) (2 ^ i) := by rw [pow_succ', matPow_two_mul]
  have hacc (i : Nat) : matMul A (matPow Y (e % 2 ^ (i + 1))) =
      matMul (matMul A (matPow Y (e % 2))) (matPow (matMul Y Y) (e / 2 % 2 ^ i)) := by
    rw [mod_two_pow_succ, matMul_matPow_bit]
  constructor
  · intro h
    obtain ⟨hY, hA⟩ := h 1 le_rfl (by omega)
    refine ⟨hA, hsquare ▸ hY, fun i _ hi => ?_⟩
    rw [← hbase, ← hacc]
    exact h (i + 1) (by omega) (by omega)
  · rintro ⟨hA, hY, hrest⟩ i h1 hi
    obtain ⟨i, rfl⟩ : ∃ k, i = k + 1 := ⟨i - 1, by omega⟩
    cases i with
    | zero => exact ⟨hsquare.symm ▸ hY, hA⟩
    | succ i =>
      rw [hbase, hacc]
      exact hrest (i + 1) (by omega) (by omega)

theorem bit_zero_eq (e : Word) : e.toNat % 2 = (e.getLsbD 0).toNat := by
  rw [toNat_getLsbD, pow_zero, Nat.div_one]

/-- The fold of R163 stores A · Y^E[0]: where E[0] = 0 that is ACC itself, which fits already. -/
theorem fold_eq_store {p : Params} (hp : p.wf = true) (t : LCtrl) {A Y Z : Mat Nat} (e : Word)
    (hA : (truncNat p.radix t A).fitsIn p) (hZ : truncNat p.radix t Z = truncNat p.radix t Y) :
    (if e.getLsbD 0 then
        store p t (engineProduct p (canonMat p.radix (truncNat p.radix t A)) (canonMat p.radix Z))
      else .ok (canonMat p.radix (truncNat p.radix t A))) =
      store p t (matMul A (matPow Y (e.toNat % 2))) := by
  rw [bit_zero_eq, engineProduct_canonMat hp]
  cases e.getLsbD 0
  · exact ((congrArg (store p t) (matMul_natI A)).trans (store_of_fits hp hA)).symm
  · have hone : matPow Y (true.toNat) = Y := matPow_one Y
    rw [hone]
    exact store_congr p (truncNat_matMul_congr (truncNat_idem _ t A) hZ)

/-- The loop from the values A in ACC and Y in BASE, BASE holding any Z that truncates as Y does: A · Y^e truncated where
everything stored on the way fits, CAPACITY otherwise. -/
theorem powLoop_computes {p : Params} (hp : p.wf = true) (t : LCtrl) :
    ∀ (fuel : Nat) (A Y Z : Mat Nat) (e : Word), bitlen e.toNat ≤ fuel → (truncNat p.radix t A).fitsIn p →
      truncNat p.radix t Z = truncNat p.radix t Y →
      (LoopFits p t A Y e.toNat →
        powLoop p t fuel (canonMat p.radix (truncNat p.radix t A)) (canonMat p.radix Z) e =
          .ok (canonMat p.radix (truncNat p.radix t (matMul A (matPow Y e.toNat))))) ∧
      (¬LoopFits p t A Y e.toNat →
        powLoop p t fuel (canonMat p.radix (truncNat p.radix t A)) (canonMat p.radix Z) e = .error .capacity) := by
  have hzero (fuel : Nat) (A Y Z : Mat Nat) :
      powLoop p t fuel (canonMat p.radix (truncNat p.radix t A)) (canonMat p.radix Z) 0 =
        .ok (canonMat p.radix (truncNat p.radix t (matMul A (matPow Y (0 : Word).toNat)))) := by
    have hA : matMul A (matPow Y (0 : Word).toNat) = A := matMul_natI A
    rw [hA, powLoop_exponent_zero]
  have hnone (A Y : Mat Nat) : LoopFits p t A Y (0 : Word).toNat := fun i h1 hi => absurd (h1.trans hi) (by decide)
  intro fuel
  induction fuel with
  | zero =>
    intro A Y Z e hfuel _ _
    obtain rfl : e = 0 := BitVec.eq_of_toNat_eq (Nat.lt_one_iff.1 ((bitlen_le_iff _ 0).1 hfuel))
    exact ⟨fun _ => hzero 0 A Y Z, fun hno => absurd (hnone A Y) hno⟩
  | succ n ih =>
    intro A Y Z e hfuel hA hZ
    by_cases he : e = 0
    · subst he
      exact ⟨fun _ => hzero (n + 1) A Y Z, fun hno => absurd (hnone A Y) hno⟩
    · have hbits := bitlen_shift he
      have hsquare : store p t (matMul Z Z) = store p t (matMul Y Y) := store_congr p (truncNat_matMul_congr hZ hZ)
      have hpow : matMul A (matPow Y e.toNat) =
          matMul (matMul A (matPow Y (e.toNat % 2))) (matPow (matMul Y Y) (e.toNat / 2)) := by
        rw [← matMul_matPow_bit, Nat.mod_add_div]
      rw [powLoop_succ p t n _ _ he, fold_eq_store hp t e hA hZ, engineProduct_canonMat hp, hsquare, hpow,
        loopFits_iff p t A Y (toNat_ne_zero he), ← toNat_shift_one]
      by_cases hacc : (truncNat p.radix t (matMul A (matPow Y (e.toNat % 2)))).fitsIn p
      case neg =>
        rw [store_of_not_fits hp hacc]
        exact ⟨fun h => absurd h.1 hacc, fun _ => rfl⟩
      by_cases hbase : (truncNat p.radix t (matMul Y Y)).fitsIn p
      case neg =>
        rw [store_of_fits hp hacc, store_of_not_fits hp hbase]
        exact ⟨fun h => absurd h.2.1 hbase, fun _ => rfl⟩
      obtain ⟨hok, herr⟩ := ih (matMul A (matPow Y (e.toNat % 2))) (matMul Y Y) (truncNat p.radix t (matMul Y Y))
        (e >>> 1) (by omega) hacc (truncNat_idem _ t _)
      rw [store_of_fits hp hacc, store_of_fits hp hbase]
      exact ⟨fun h => hok h.2.2, fun h => herr fun hrest => h ⟨hacc, hbase, hrest⟩⟩

/-! ## The engine's result (R162, R163, R165) -/

theorem matI_eq_canonMat {p : Params} (hp : p.wf = true) : matI = canonMat p.radix natI := by
  have hone : canon p.radix 1 = [1] := canon_val hp (canonicalBig_one hp)
  simp only [canonMat, natI, Mat.map, hone, canon_zero]
  rfl

theorem one_lt_radix_pow {p : Params} (hp : p.wf = true) {k : Nat} (hk : 1 ≤ k) : 1 < p.radix ^ k :=
  Nat.one_lt_pow (by omega) (by have := radix_pos_of_wf hp; omega)

theorem natI_fitsIn {p : Params} (hp : p.wf = true) : natI.fitsIn p := by
  have h3 := three_le_maxLimbs_of_wf hp
  have h1 : 1 < p.radix ^ p.maxLimbs := one_lt_radix_pow hp (by omega)
  have h0 : 0 < p.radix ^ p.maxLimbs := by omega
  exact ⟨h1, h0, h0, h1⟩

/-- A legal truncation count leaves 1 as it is (R167). -/
theorem truncValue_one {s : State} (hs : s.Sound) (h : s.truncLegal) : truncValue s.radix s.lctrl 1 = 1 := by
  cases hen : s.lctrl.truncEn
  · exact truncValue_of_off _ hen 1
  · rw [truncValue_of_on _ hen]
    exact Nat.mod_eq_of_lt (one_lt_radix_pow hs.params_wf (h hen).1)

theorem truncValue_zero (B : Nat) (t : LCtrl) : truncValue B t 0 = 0 := by
  cases hen : t.truncEn
  · exact truncValue_of_off _ hen 0
  · rw [truncValue_of_on _ hen, Nat.zero_mod]

theorem truncNat_natI {s : State} (hs : s.Sound) (h : s.truncLegal) : truncNat s.radix s.lctrl natI = natI := by
  simp only [truncNat, natI, Mat.map, truncValue_one hs h, truncValue_zero]

/-- `PowLoop(X, e)` under a legal setting: X^e truncated where everything stored on the way fits, CAPACITY otherwise. -/
theorem powMat_computes {s : State} (hs : s.Sound) (h : s.truncLegal) (X : Mat Nat) (e : Word) :
    (LoopFits s.params s.lctrl natI X e.toNat →
      powMat s.params s.lctrl (canonMat s.radix X) e =
        .ok (canonMat s.radix (truncNat s.radix s.lctrl (matPow X e.toNat)))) ∧
    (¬LoopFits s.params s.lctrl natI X e.toNat →
      powMat s.params s.lctrl (canonMat s.radix X) e = .error .capacity) := by
  have hI := truncNat_natI hs h
  have hfits : (truncNat s.radix s.lctrl natI).fitsIn s.params := hI.symm ▸ natI_fitsIn hs.params_wf
  have hloop := powLoop_computes hs.params_wf s.lctrl 64 natI X X e (bitlen_word_le e) hfits rfl
  have hacc : matI = canonMat s.params.radix (truncNat s.params.radix s.lctrl natI) :=
    (matI_eq_canonMat hs.params_wf).trans (congrArg _ hI.symm)
  rw [natI_matMul, ← hacc] at hloop
  exact hloop

/-- What is truncated to a legal count fits a register (R168). -/
theorem fitsReg_mod {s : State} (hs : s.Sound) (hen : s.lctrl.truncEn = true) (h : s.truncLegal) (x : Nat) :
    s.fitsReg (x % s.radix ^ s.lctrl.truncLimbs.toNat) := by
  have hradix : 0 < s.radix := Nat.lt_of_lt_of_le (by decide) (radix_pos_of_wf hs.params_wf)
  exact (Nat.mod_lt x (Nat.pow_pos hradix)).trans_le (Nat.pow_le_pow_right hradix (h hen).2)

theorem truncNat_fitsIn {s : State} (hs : s.Sound) (hen : s.lctrl.truncEn = true) (h : s.truncLegal) (X : Mat Nat) :
    (truncNat s.radix s.lctrl X).fitsIn s.params := by
  have hcell := fitsReg_mod hs hen h
  rw [truncNat_of_on _ hen]
  exact ⟨hcell _, hcell _, hcell _, hcell _⟩

theorem powMat_of_on {s : State} (hs : s.Sound) (hen : s.lctrl.truncEn = true) (h : s.truncLegal) (X : Mat Nat)
    (e : Word) : powMat s.params s.lctrl (canonMat s.radix X) e =
      .ok (canonMat s.radix ((matPow X e.toNat).map (· % s.radix ^ s.lctrl.truncLimbs.toNat))) := by
  rw [← truncNat_of_on _ hen]
  exact (powMat_computes hs h X e).1 fun _ _ _ => ⟨truncNat_fitsIn hs hen h _, truncNat_fitsIn hs hen h _⟩

/-! ## A completed write of a matrix (R22, R92) -/

/-- The registers of a matrix are canonical, so they are the canonical forms of its values (R10, R21). -/
theorem M_eq_canonMat {s : State} (hs : s.Sound) (k : MReg) : s.M k = canonMat s.radix (s.valM k) := by
  have hcell (c : Nat) : canon s.radix (val s.radix (s.V (cellReg k c))) = s.V (cellReg k c) :=
    canon_val hs.params_wf (sound_V hs _)
  simp only [canonMat, State.valM, Mat.map, State.M, hcell]

theorem State.Sound.drawWork {s : State} (hs : s.Sound) : s.drawWork.Sound := ⟨hs.params_wf, hs.canonical⟩

/-- A matrix that fits is stored as the canonical limb sequences of its cells. -/
theorem holdsMat_setM_canonMat {s : State} (hs : s.Sound) (k : MReg) {X : Mat Nat} (hX : X.fitsIn s.params) :
    ((s.setM k (canonMat s.radix X)).finish .none).holdsMat k X := by
  have hM : ((s.setM k (canonMat s.radix X)).finish .none).M k = canonMat s.radix X := M_setM_same k _ s
  have hcell (c x : Nat) (hV : ((s.setM k (canonMat s.radix X)).finish .none).V (cellReg k c) = canon s.radix x)
      (hx : s.fitsReg x) : ((s.setM k (canonMat s.radix X)).finish .none).holds (cellReg k c) x := by
    refine ⟨?_, ?_⟩
    · rw [hV]
      exact canonicalBig_canon hs.params_wf hx
    · rw [State.valV, hV]
      exact val_canon_of_wf hs.params_wf x
  obtain ⟨h00, h01, h10, h11⟩ := hX
  exact ⟨hcell 0 _ (congrArg Mat.c00 hM) h00, hcell 1 _ (congrArg Mat.c01 hM) h01,
    hcell 2 _ (congrArg Mat.c10 hM) h10, hcell 3 _ (congrArg Mat.c11 hM) h11⟩

theorem sameVButM_setM (k : MReg) (R : Mat BigUint) (s : State) : SameVButM k s ((s.setM k R).finish .none) :=
  fun _ h0 h1 h2 h3 => V_setM_other R s h0 h1 h2 h3

/-! ## MMUL (R160) -/

theorem encode_mmul (d a b : MReg) :
    encode (.mmul d a b) = 0x20#64 ||| d.setWidth 64 <<< 8 ||| a.setWidth 64 <<< 12 ||| b.setWidth 64 <<< 16 := by
  simp [encode, commandWord]

theorem exec_mmul_of_wf {d a b : MReg} (hwf : (Instr.mmul d a b).wf = true) (s : State) :
    exec (.mmul d a b) s = s.complete do
      let R ← fitMat s.params (canonMat s.radix (matMul (s.valM a) (s.valM b)))
      return s.setM d R :=
  if_pos hwf

/-- Settles O36: the four cells pass one capacity check before any is written. -/
theorem mmulStoresTheExactMatrixProduct : Obligations.MmulStoresTheExactMatrixProduct := by
  intro d a b s hs hwf
  refine ⟨fun w => ?_, fun hX => ?_, fun hX => ?_⟩
  · rw [decode_ok_iff_of_wf hwf, encode_mmul]
  · have hfit := fitMat_of_fits hs.params_wf hX
    refine ⟨_, ?_, holdsMat_setM_canonMat hs d hX, sameVButM_setM d _ s, rfl⟩
    rw [exec_mmul_of_wf hwf, State.radix, hfit]
    rfl
  · have hfit := fitMat_of_not_fits hs.params_wf hX
    rw [exec_mmul_of_wf hwf, State.radix, hfit]
    rfl

/-! ## MPOW (R162) -/

theorem encode_mpow (d a : MReg) :
    encode (.mpow d a) = 0x21#64 ||| d.setWidth 64 <<< 8 ||| a.setWidth 64 <<< 12 := by
  simp [encode, commandWord]

/-- MPOW from the value of its operand. -/
theorem exec_mpow_canonMat {d a : MReg} {s : State} (hs : s.Sound) (hwf : (Instr.mpow d a).wf = true)
    (h : s.truncLegal) :
    exec (.mpow d a) s = s.drawWork.complete do
      let P ← powMat s.params s.lctrl (canonMat s.radix (s.valM a)) s.larg0
      return s.drawWork.setM d P := by
  rw [exec_mpow_of_legal hwf h, M_eq_canonMat hs]
  rfl

/-- MPOW succeeds where the loop does, with the loop's result in all four cells. -/
theorem exec_mpow_of_ok {d a : MReg} {s : State} (hs : s.Sound) (hwf : (Instr.mpow d a).wf = true)
    (h : s.truncLegal) {X : Mat Nat} (hX : X.fitsIn s.params)
    (hpow : powMat s.params s.lctrl (canonMat s.radix (s.valM a)) s.larg0 = .ok (canonMat s.radix X)) :
    ∃ t, exec (.mpow d a) s = .next t ∧ t.holdsMat d X ∧ SameVButM d s t ∧ CompletesEngine .none s t := by
  refine ⟨_, ?_, holdsMat_setM_canonMat hs.drawWork d hX, sameVButM_setM d _ s.drawWork, rfl⟩
  rw [exec_mpow_canonMat hs hwf h, hpow]
  rfl

/-- Without truncation the loop's condition is the statement's, from the identity in ACC. -/
theorem loopFits_of_off (p : Params) {t : LCtrl} (h : t.truncEn = false) (X : Mat Nat) (e : Nat) :
    LoopFits p t natI X e ↔
      ∀ i, 1 ≤ i → i ≤ bitlen e → (matPow X (2 ^ i)).fitsIn p ∧ (matPow X (e % 2 ^ i)).fitsIn p := by
  simp only [LoopFits, truncNat_of_off p.radix h, natI_matMul]

/-- The result itself is what the last iteration stores, or the identity. -/
theorem fitsIn_of_loopFits {p : Params} (hp : p.wf = true) {X : Mat Nat} {e : Nat}
    (h : ∀ i, 1 ≤ i → i ≤ bitlen e → (matPow X (2 ^ i)).fitsIn p ∧ (matPow X (e % 2 ^ i)).fitsIn p) :
    (matPow X e).fitsIn p := by
  by_cases he : e = 0
  · rw [he]
    exact natI_fitsIn hp
  · have hlast := (h (bitlen e) (by have := bitlen_eq_succ he; omega) le_rfl).2
    rwa [Nat.mod_eq_of_lt ((bitlen_le_iff e _).1 le_rfl)] at hlast

/-- Settles O37: the loop's own condition, read without truncation. -/
theorem mpowWithoutTruncationStoresThePowerOrCapacity :
    Obligations.MpowWithoutTruncationStoresThePowerOrCapacity := by
  intro d a s hs hwf hoff
  have hlegal := truncLegal_of_off hoff
  obtain ⟨hok, herr⟩ := powMat_computes hs hlegal (s.valM a) s.larg0
  rw [loopFits_of_off s.params hoff] at hok herr
  refine ⟨fun w => ?_, fun hfits => ?_, fun hfits => ?_⟩
  · rw [decode_ok_iff_of_wf hwf, encode_mpow]
  · rw [truncNat_of_off _ hoff] at hok
    exact exec_mpow_of_ok hs hwf hlegal (fitsIn_of_loopFits hs.params_wf hfits) (hok hfits)
  · refine ⟨s.drawWork.finish .capacity, ?_, rfl, rfl⟩
    rw [exec_mpow_canonMat hs hwf hlegal, herr hfits]
    rfl

/-- Settles O38: nothing truncated to a legal count overflows, and the identity is its own remainder. -/
theorem mpowWithTruncationStoresThePowerModulo : Obligations.MpowWithTruncationStoresThePowerModulo := by
  intro d a s hs hwf hen hlegal
  have hpow := powMat_of_on hs hen hlegal (s.valM a) s.larg0
  have hfits := truncNat_fitsIn hs hen hlegal (matPow (s.valM a) s.larg0.toNat)
  rw [truncNat_of_on _ hen] at hfits
  have hstored := exec_mpow_of_ok (d := d) hs hwf hlegal hfits hpow
  split
  case isTrue hzero =>
    have hI := truncNat_natI hs hlegal
    rw [truncNat_of_on _ hen] at hI
    have hone : matPow (s.valM a) (0 : Word).toNat = natI := rfl
    rwa [hzero, hone, hI] at hstored
  case isFalse => exact hstored

/-! ## FIB with truncation (R180, R181) -/

theorem matQ_eq_canonMat {p : Params} (hp : p.wf = true) : matQ = canonMat p.radix natQ := by
  have hone : canon p.radix 1 = [1] := canon_val hp (canonicalBig_one hp)
  simp only [canonMat, natQ, Mat.map, hone, canon_zero]
  rfl

theorem matMul_natQ (X : Mat Nat) :
    matMul X natQ = { c00 := X.c00 + X.c01, c01 := X.c00, c10 := X.c10 + X.c11, c11 := X.c10 } := by
  simp [matMul, natQ]

/-- The upper row of Q^n: F(n + 1) and F(n) (R181). -/
theorem matPow_natQ (n : Nat) : (matPow natQ n).c00 = Nat.fib (n + 1) ∧ (matPow natQ n).c01 = Nat.fib n := by
  induction n with
  | zero => exact ⟨rfl, rfl⟩
  | succ n ih =>
    obtain ⟨h00, h01⟩ := ih
    rw [matPow, matMul_natQ, h00, h01, Nat.fib_add_two, Nat.add_comm]
    exact ⟨rfl, rfl⟩

/-- The exponent FIB gives the engine (R180). -/
theorem toNat_ofInt_sub_two {n : Nat} (h2 : 2 ≤ n) (hn : n < 2 ^ 63) :
    (BitVec.ofInt 64 ((n : Int) - 2)).toNat = n - 2 := by
  rw [BitVec.toNat_ofInt]
  omega

/-- With a legal count FIB's number is F(n) mod B^K, also where n is 1 or 2 and the engine is bypassed. -/
theorem fibNumber_of_on {s : State} (hs : s.Sound) (hen : s.lctrl.truncEn = true) (h : s.truncLegal) {n : Nat}
    (h1 : 1 ≤ n) (hn : n < 2 ^ 63) :
    fibNumber s.params s.lctrl n = .ok (Nat.fib n % s.radix ^ s.lctrl.truncLimbs.toNat) := by
  have hone := truncValue_one hs h
  rw [truncValue_of_on _ hen] at hone
  unfold fibNumber
  split
  case isTrue hsmall =>
    obtain rfl | rfl : n = 1 ∨ n = 2 := by omega
    · rw [Nat.fib_one, hone]
    · rw [Nat.fib_two, hone]
  case isFalse hlarge =>
    obtain ⟨h00, h01⟩ := matPow_natQ (n - 2)
    have hsum : Nat.fib (n - 2 + 1) + Nat.fib (n - 2) = Nat.fib n := by
      rw [Nat.add_comm, ← Nat.fib_add_two, Nat.sub_add_cancel (by omega)]
    have hQ : matQ = canonMat s.radix natQ := matQ_eq_canonMat hs.params_wf
    rw [hQ, powMat_of_on hs hen h, toNat_ofInt_sub_two (by omega) hn]
    change Except.ok (truncValue s.radix s.lctrl (val s.radix (canon s.radix ((matPow natQ (n - 2)).c00 % _)) +
      val s.radix (canon s.radix ((matPow natQ (n - 2)).c01 % _)))) = _
    have hval : ∀ x, val s.radix (canon s.radix x) = x := val_canon_of_wf hs.params_wf
    rw [hval, hval, truncValue_of_on _ hen, ← Nat.add_mod, h00, h01, hsum]

/-- FIB stores the number its index gives, behind the capacity check. -/
theorem exec_fib_of_ok {d : VReg} {s : State} (h : s.truncLegal) {x : Nat} (h1 : 1 ≤ s.larg0.toInt)
    (hx : fibNumber s.params s.lctrl s.larg0.toInt = .ok x) : exec (.fib d) s = s.drawWork.storeNumber d x := by
  have hindex : s.argIndex = .ok s.larg0.toInt := by
    rcases argIndex_cases s with ⟨-, hok⟩ | ⟨hlow, -⟩
    · exact hok
    · omega
  rw [exec_fib_of_legal h, hindex]
  change (s.drawWork.complete do
    let x ← fibNumber s.params s.lctrl s.larg0.toInt
    let L ← fit s.params (canon s.radix x)
    return s.drawWork.setV d L) = _
  rw [hx]
  rfl

/-- Settles O43: F(n) mod B^K fits K limbs. -/
theorem fibWithTruncationStoresTheFibonacciNumberModulo :
    Obligations.FibWithTruncationStoresTheFibonacciNumberModulo := by
  intro d s n hs hen hlegal hn h1
  have hlt : n < 2 ^ 63 := by
    have := BitVec.toInt_lt (x := s.larg0)
    omega
  have hx := fibNumber_of_on hs hen hlegal h1 hlt
  rw [← hn] at hx
  have hfits : s.drawWork.fitsReg (Nat.fib n % s.radix ^ s.lctrl.truncLimbs.toNat) := fitsReg_mod hs hen hlegal _
  exact ⟨_, (exec_fib_of_ok hlegal (by omega) hx).trans (storeNumber_of_fits hs.drawWork d hfits),
    holds_setV_canon hs.drawWork d hfits, sameVBut_setV d _ s.drawWork, rfl⟩

end Sys2Proof.Machine
end

section
/-!
PROOF. FIB below its first index and without truncation (R180, R181, R183, R184): the index check, and why the loop's
last square decides between F(n) and CAPACITY.
-/

namespace Sys2Proof.Machine

open Sys2Proof.Config

/-! ## FIB's errors past the truncation check (R183, R202) -/

theorem exec_fib_of_index_lt_one {d : VReg} {s : State} (h : s.truncLegal) (hlow : s.larg0.toInt < 1) :
    exec (.fib d) s = .next (s.drawWork.finish .invalidIndex) := by
  have hindex : s.argIndex = .error .invalidIndex := by
    rcases argIndex_cases s with ⟨hge, -⟩ | ⟨-, herr⟩
    · omega
    · exact herr
  rw [exec_fib_of_legal h, hindex]
  rfl

/-- FIB with a legal setting and index: its number, then the store (R180). -/
theorem exec_fib_of_one_le_index {d : VReg} {s : State} (h : s.truncLegal) (h1 : 1 ≤ s.larg0.toInt) :
    exec (.fib d) s = s.drawWork.complete do
      let x ← fibNumber s.params s.lctrl s.larg0.toInt
      let L ← fit s.params (canon s.radix x)
      return s.drawWork.setV d L := by
  have hindex : s.argIndex = .ok s.larg0.toInt := by
    rcases argIndex_cases s with ⟨-, hok⟩ | ⟨hlow, -⟩
    · exact hok
    · omega
  rw [exec_fib_of_legal h, hindex]
  rfl

/-- FIB ends with the error its number raises. -/
theorem exec_fib_of_error {d : VReg} {s : State} (h : s.truncLegal) {c : ErrCode} (h1 : 1 ≤ s.larg0.toInt)
    (hx : fibNumber s.params s.lctrl s.larg0.toInt = .error c) :
    exec (.fib d) s = .next (s.drawWork.finish c) := by
  rw [exec_fib_of_one_le_index h h1, hx]
  rfl

/-- Settles O44: the error completion keeps the V registers of the state the engine ran on. -/
theorem fibBelowOneEndsWithInvalidIndex : Obligations.FibBelowOneEndsWithInvalidIndex :=
  fun _ _ hlegal hlow => ⟨_, exec_fib_of_index_lt_one hlegal hlow, rfl, rfl⟩

/-! ## Which powers of Q fit (R181, R184) -/

/-- The lower row of Q^n: F(n), and what is missing from it to F(n + 1) (R181). -/
theorem matPow_natQ_lower (n : Nat) :
    (matPow natQ n).c10 = Nat.fib n ∧ (matPow natQ n).c10 + (matPow natQ n).c11 = Nat.fib (n + 1) := by
  induction n with
  | zero => exact ⟨rfl, rfl⟩
  | succ n ih =>
    obtain ⟨hleft, hsum⟩ := ih
    rw [matPow, matMul_natQ, hsum, hleft]
    exact ⟨rfl, (Nat.add_comm _ _).trans Nat.fib_add_two.symm⟩

/-- F(n + 1) is the greatest cell of Q^n. -/
theorem matPow_natQ_fitsIn_iff (p : Params) (n : Nat) :
    (matPow natQ n).fitsIn p ↔ Nat.fib (n + 1) < p.radix ^ p.maxLimbs := by
  obtain ⟨h00, h01⟩ := matPow_natQ n
  obtain ⟨h10, hsum⟩ := matPow_natQ_lower n
  have hmono : Nat.fib n ≤ Nat.fib (n + 1) := Nat.fib_le_fib_succ
  unfold Mat.fitsIn
  omega

/-- Every power of Q the loop stores on the way to Q^e is at most its last square, Q^(2^bitlen(e)). -/
theorem loopFits_natQ_iff (p : Params) {t : LCtrl} (hoff : t.truncEn = false) {e : Nat} (he : e ≠ 0) :
    LoopFits p t natI natQ e ↔ Nat.fib (2 ^ bitlen e + 1) < p.radix ^ p.maxLimbs := by
  have hpos : 1 ≤ bitlen e := by
    have := bitlen_eq_succ he
    omega
  simp only [loopFits_of_off p hoff, matPow_natQ_fitsIn_iff]
  constructor
  · exact fun h => (h (bitlen e) hpos le_rfl).1
  · intro h i _ hi
    have hsquare : 2 ^ i ≤ 2 ^ bitlen e := Nat.pow_le_pow_right (by decide) hi
    have hfold : e % 2 ^ i < 2 ^ i := Nat.mod_lt _ (by positivity)
    exact ⟨(Nat.fib_mono (by omega)).trans_lt h, (Nat.fib_mono (by omega)).trans_lt h⟩

/-- F(n) is at most the greatest cell of the last square of Q^(n - 2), since n - 2 < 2^bitlen(n - 2). -/
theorem fib_le_fib_last_square (n : Nat) : Nat.fib n ≤ Nat.fib (2 ^ bitlen (n - 2) + 1) := by
  have hlt : n - 2 < 2 ^ bitlen (n - 2) := (bitlen_le_iff _ _).1 le_rfl
  exact Nat.fib_mono (by omega)

/-! ## FIB without truncation (R180, R184) -/

/-- The two indices that bypass the engine (R180). -/
theorem fibNumber_of_le_two (p : Params) (t : LCtrl) {n : Nat} (h1 : 1 ≤ n) (h2 : n ≤ 2) :
    fibNumber p t n = .ok (Nat.fib n) := by
  obtain rfl | rfl : n = 1 ∨ n = 2 := by omega
  · rfl
  · rfl

/-- Past them the number is the sum of the upper row of the engine's result (R180). -/
theorem fibNumber_of_two_lt {s : State} (hs : s.Sound) {n : Nat} (h2 : 2 < n) :
    fibNumber s.params s.lctrl n = do
      let P ← powMat s.params s.lctrl (canonMat s.radix natQ) (BitVec.ofInt 64 ((n : Int) - 2))
      return truncValue s.radix s.lctrl (val s.radix P.c00 + val s.radix P.c01) := by
  have hQ : matQ = canonMat s.radix natQ := matQ_eq_canonMat hs.params_wf
  rw [fibNumber, if_neg (by omega), hQ]
  rfl

/-- The upper row of Q^(n - 2) sums to F(n) (R181). -/
theorem fib_eq_upper_row_sum {n : Nat} (h2 : 2 ≤ n) :
    (matPow natQ (n - 2)).c00 + (matPow natQ (n - 2)).c01 = Nat.fib n := by
  obtain ⟨h00, h01⟩ := matPow_natQ (n - 2)
  rw [h00, h01, Nat.add_comm, ← Nat.fib_add_two, Nat.sub_add_cancel h2]

section
variable {s : State} (hs : s.Sound) (hoff : s.lctrl.truncEn = false) {n : Nat} (hn : n < 2 ^ 63)
include hs hoff hn

theorem fibNumber_of_last_square_fits (h2 : 2 < n) (hfits : s.fitsReg (Nat.fib (2 ^ bitlen (n - 2) + 1))) :
    fibNumber s.params s.lctrl n = .ok (Nat.fib n) := by
  have hexp := toNat_ofInt_sub_two h2.le hn
  have hloop := (loopFits_natQ_iff s.params hoff (by omega)).2 hfits
  rw [← hexp] at hloop
  have hval : ∀ x, val s.radix (canon s.radix x) = x := val_canon_of_wf hs.params_wf
  rw [fibNumber_of_two_lt hs h2, (powMat_computes hs (truncLegal_of_off hoff) natQ _).1 hloop, hexp,
    truncNat_of_off _ hoff, ← fib_eq_upper_row_sum h2.le]
  change Except.ok (truncValue s.radix s.lctrl (val s.radix (canon s.radix (matPow natQ (n - 2)).c00) +
    val s.radix (canon s.radix (matPow natQ (n - 2)).c01))) = _
  rw [hval, hval, truncValue_of_off _ hoff]

theorem fibNumber_of_last_square_not_fits (h2 : 2 < n)
    (hfits : ¬s.fitsReg (Nat.fib (2 ^ bitlen (n - 2) + 1))) :
    fibNumber s.params s.lctrl n = .error .capacity := by
  have hloop := mt (loopFits_natQ_iff s.params hoff (by omega)).1 hfits
  rw [← toNat_ofInt_sub_two h2.le hn] at hloop
  rw [fibNumber_of_two_lt hs h2, (powMat_computes hs (truncLegal_of_off hoff) natQ _).2 hloop]
  rfl

end

/-- F(1) = F(2) = 1 fits, and past them F(n) is at most the last square. -/
theorem fitsReg_fib {s : State} (hs : s.Sound) {n : Nat}
    (h : n ≤ 2 ∨ s.fitsReg (Nat.fib (2 ^ bitlen (n - 2) + 1))) : s.fitsReg (Nat.fib n) := by
  rcases h with h2 | hfits
  · have hone : Nat.fib n ≤ Nat.fib 2 := Nat.fib_mono h2
    have h3 := three_le_maxLimbs_of_wf hs.params_wf
    exact hone.trans_lt (one_lt_radix_pow hs.params_wf (by omega))
  · exact (fib_le_fib_last_square n).trans_lt hfits

theorem encode_fib (d : VReg) : encode (.fib d) = 0x30#64 ||| d.setWidth 64 <<< 8 := by
  simp [encode, commandWord]

/-- Settles O42: the loop raises CAPACITY exactly where its last square does not fit, and F(n) fits where that does. -/
theorem fibWithoutTruncationStoresTheFibonacciNumberOrCapacity :
    Obligations.FibWithoutTruncationStoresTheFibonacciNumberOrCapacity := by
  intro d s n hs hoff hn h1
  have hlegal := truncLegal_of_off hoff
  have hlt : n < 2 ^ 63 := by
    have := BitVec.toInt_lt (x := s.larg0)
    omega
  refine ⟨fun w => ?_, fun hfits => ?_, fun hfits => ?_⟩
  · rw [decode_ok_iff_of_wf rfl, encode_fib]
  · have hx : fibNumber s.params s.lctrl n = .ok (Nat.fib n) := by
      by_cases h2 : n ≤ 2
      · exact fibNumber_of_le_two s.params s.lctrl h1 h2
      · exact fibNumber_of_last_square_fits hs hoff hlt (by omega) (hfits.resolve_left h2)
    rw [← hn] at hx
    have hreg : s.drawWork.fitsReg (Nat.fib n) := fitsReg_fib hs hfits
    exact ⟨_, (exec_fib_of_ok hlegal (by omega) hx).trans (storeNumber_of_fits hs.drawWork d hreg),
      holds_setV_canon hs.drawWork d hreg, sameVBut_setV d _ s.drawWork, rfl⟩
  · obtain ⟨h2, hsquare⟩ := not_or.1 hfits
    have hx := fibNumber_of_last_square_not_fits hs hoff hlt (by omega) hsquare
    rw [← hn] at hx
    exact ⟨_, exec_fib_of_error hlegal (by omega) hx, rfl, rfl⟩

end Sys2Proof.Machine
end

section
/-!
PROOF. Errors (R200 to R202): an error changes STATUS alone, which codes the checks of each command can raise, and
which check comes first.
-/

namespace Sys2Proof.Machine

/-! ## An error changes only STATUS (R201) -/

/-- Of the shapes of a completion only the one without a write shows an error. -/
theorem State.Completion.eq_finish_of_error {u t : State} (h : u.Completion t) (herr : t.errcode ≠ .none) :
    ∃ c, t = u.finish c := by
  cases h with
  | status c => exact ⟨c, rfl⟩
  | vreg | matrix | result | outbuf => exact absurd rfl herr

/-- Settles O15: an error completion writes nothing, and a command that does not use the engine draws nothing. -/
theorem commandWithErrorChangesOnlyStatus : Obligations.CommandWithErrorChangesOnlyStatus := by
  intro i s t h herr
  have hframe : t =
      { s with errcode := t.errcode, done := true, phase := .idle, work := t.work, draws := t.draws } := by
    rcases exec_completion h with hc | hc
    · obtain ⟨c, rfl⟩ := hc.eq_finish_of_error herr
      rfl
    · obtain ⟨c, rfl⟩ := hc.eq_finish_of_error herr
      rfl
  refine ⟨hframe, fun hengine => ?_⟩
  obtain ⟨w, c, hexec, hwrites⟩ := finishesWithin_exec i s
  obtain ⟨hwork, hdraws⟩ := hwrites.work hengine
  cases hexec.symm.trans h
  rw [finish_work, finish_draws, hwork, hdraws] at hframe
  exact hframe

/-! ## The codes each check can raise (R200) -/

/-- The check `x` raises no code outside `cs`. -/
def RaisesOnly (cs : List ErrCode) {α : Type} (x : Except ErrCode α) : Prop := ∀ c, x = .error c → c ∈ cs

/-- The command completes, with NONE or one of the codes `cs`. -/
def Reports (cs : List ErrCode) (o : Host.Outcome State Fault Refusal) : Prop :=
  ∃ t : State, o = .next t ∧ t.errcode ∈ .none :: cs

section
variable {cs : List ErrCode} {α β : Type}

theorem raisesOnly_ok (a : α) : RaisesOnly cs (.ok a : Except ErrCode α) := nofun

theorem raisesOnly_error {c : ErrCode} (h : c ∈ cs) : RaisesOnly cs (.error c : Except ErrCode α) := by
  rintro _ ⟨⟩
  exact h

/-- A sequence of two checks raises only what they raise. -/
theorem RaisesOnly.bind {x : Except ErrCode α} {f : α → Except ErrCode β} (hx : RaisesOnly cs x)
    (hf : ∀ a, RaisesOnly cs (f a)) : RaisesOnly cs (x >>= f) := by
  cases x with
  | ok a => exact hf a
  | error c => exact raisesOnly_error (hx c rfl)

/-- A completion shows the code its checks raise (R92). -/
theorem RaisesOnly.reports {r : Except ErrCode State} (hr : RaisesOnly cs r) (u : State) :
    Reports cs (u.complete r) := by
  rcases complete_cases u r with ⟨w, -, hc⟩ | ⟨c, hc', hc⟩
  · exact ⟨_, hc, List.mem_cons_self⟩
  · exact ⟨_, hc, List.mem_cons_of_mem _ (hr c hc')⟩

/-- The shape in which the laws of the checks are stated: a value, or one code. -/
theorem raisesOnly_of_ok_or_error {c : ErrCode} {x : Except ErrCode α} {a : α} (h : c ∈ cs) {P Q : Prop}
    (hx : P ∧ x = .ok a ∨ Q ∧ x = .error c) : RaisesOnly cs x := by
  rcases hx with ⟨-, rfl⟩ | ⟨-, rfl⟩
  · exact raisesOnly_ok a
  · exact raisesOnly_error h

theorem raisesOnly_checkTrunc (h : .badConfig ∈ cs) (s : State) : RaisesOnly cs (checkTrunc s.params s.lctrl) :=
  raisesOnly_of_ok_or_error h (checkTrunc_cases s)

theorem raisesOnly_argLimb (h : .illegalOperand ∈ cs) (s : State) : RaisesOnly cs s.argLimb :=
  raisesOnly_of_ok_or_error h (argLimb_cases s)

theorem raisesOnly_argDigitCount (h : .illegalOperand ∈ cs) (s : State) : RaisesOnly cs s.argDigitCount :=
  raisesOnly_of_ok_or_error h (argDigitCount_cases s)

theorem raisesOnly_argIndex (h : .invalidIndex ∈ cs) (s : State) : RaisesOnly cs s.argIndex :=
  raisesOnly_of_ok_or_error h (argIndex_cases s)

/-! ## The capacity check (R6, R168) -/

theorem raisesOnly_fit (h : .capacity ∈ cs) (p : Config.Params) (L : BigUint) : RaisesOnly cs (fit p L) :=
  raisesOnly_of_ok_or_error h (fit_cases p L)

theorem raisesOnly_fitMat (h : .capacity ∈ cs) (p : Config.Params) (R : Mat BigUint) : RaisesOnly cs (fitMat p R) :=
  raisesOnly_of_ok_or_error h (fitMat_cases p R)

/-- The common end of VCONST, VLIMBIN, VADD, VMUL and FIB. -/
theorem raisesOnly_fit_setV (h : .capacity ∈ cs) (p : Config.Params) (L : BigUint) (d : VReg) (s : State) :
    RaisesOnly cs (do let M ← fit p L; return s.setV d M) :=
  (raisesOnly_fit h p L).bind fun _ => raisesOnly_ok _

/-- The loop raises only what `Store` raises (R163, R168). -/
theorem raisesOnly_powLoop (h : .capacity ∈ cs) (p : Config.Params) (t : LCtrl) :
    ∀ (fuel : Nat) (acc base : Mat BigUint) (e : Word), RaisesOnly cs (powLoop p t fuel acc base e) := by
  intro fuel
  induction fuel with
  | zero => exact fun acc _ _ => raisesOnly_ok acc
  | succ n ih =>
    intro acc base e
    by_cases he : e = 0
    · rw [he, powLoop_exponent_zero]
      exact raisesOnly_ok acc
    · have hfold : RaisesOnly cs (if e.getLsbD 0 then store p t (engineProduct p acc base) else .ok acc) := by
        split
        · exact raisesOnly_fitMat h p _
        · exact raisesOnly_ok acc
      rw [powLoop_succ p t n acc base he]
      exact hfold.bind fun acc' => (raisesOnly_fitMat h p _).bind fun base' => ih acc' base' _

theorem raisesOnly_fibNumber (h : .capacity ∈ cs) (p : Config.Params) (t : LCtrl) (n : Int) :
    RaisesOnly cs (fibNumber p t n) := by
  unfold fibNumber
  split
  · exact raisesOnly_ok 1
  · exact (raisesOnly_powLoop h p t 64 matI matQ _).bind fun _ => raisesOnly_ok _

end

/-! ## The codes each command reports (R200) -/

theorem reports_vlimbin (d : VReg) (s : State) : Reports [.illegalOperand, .capacity] (exec (.vlimbin d) s) :=
  RaisesOnly.reports (u := s) <|
    (raisesOnly_argLimb (by decide) s).bind fun _ => raisesOnly_fit_setV (by decide) s.params _ d s

theorem reports_lowdig (a : VReg) (s : State) : Reports [.illegalOperand] (exec (.lowdig a) s) :=
  RaisesOnly.reports (u := s) <| (raisesOnly_argDigitCount (by decide) s).bind fun _ => raisesOnly_ok _

theorem reports_mmul {d a b : MReg} (hwf : (Instr.mmul d a b).wf = true) (s : State) :
    Reports [.capacity] (exec (.mmul d a b) s) := by
  rw [exec_mmul_of_wf hwf]
  exact ((raisesOnly_fitMat (by decide) s.params _).bind fun _ => raisesOnly_ok _).reports s

theorem reports_mpow {d a : MReg} (hwf : (Instr.mpow d a).wf = true) (s : State) :
    Reports [.badConfig, .capacity] (exec (.mpow d a) s) := by
  have hpow := raisesOnly_powLoop (cs := [.badConfig, .capacity]) (by decide) s.params s.lctrl 64 matI (s.M a)
    s.argExponent
  rw [exec_mpow_of_wf hwf]
  exact ((raisesOnly_checkTrunc (by decide) s).bind fun _ => hpow.bind fun _ => raisesOnly_ok _).reports s.drawWork

theorem reports_fib (d : VReg) (s : State) :
    Reports [.badConfig, .invalidIndex, .capacity] (exec (.fib d) s) :=
  RaisesOnly.reports (u := s.drawWork) <|
    (raisesOnly_checkTrunc (by decide) s).bind fun _ =>
      (raisesOnly_argIndex (by decide) s).bind fun n =>
        (raisesOnly_fibNumber (by decide) s.params s.lctrl n).bind fun x =>
          raisesOnly_fit_setV (by decide) s.params (canon s.radix x) d s.drawWork

/-- Settles O16: each command's checks, in the groups of R200. -/
theorem eachCommandReportsOnlyItsOwnErrorCodes : Obligations.EachCommandReportsOnlyItsOwnErrorCodes := by
  intro i s hwf
  cases i with
  | nop | vzero _ | vmov _ _ | decstr _ => exact ⟨_, rfl, rfl⟩
  | vconst d | vadd d _ _ | vmul d _ _ => exact (raisesOnly_fit_setV (by decide) s.params _ d s).reports s
  | vlimbin d => exact reports_vlimbin d s
  | lowdig a => exact reports_lowdig a s
  | mmul d a b => exact reports_mmul hwf s
  | mpow d a => exact reports_mpow hwf s
  | fib d => exact reports_fib d s

/-! ## The order of the checks (R202) -/

/-- Settles O17: in each case the first check that fails ends the command, whatever the later ones would say. -/
theorem errorChecksRunInTheStatedOrder : Obligations.ErrorChecksRunInTheStatedOrder :=
  ⟨fun _ _ s hno => exec_of_not_wf hno s,
    fun _ _ _ hwf hbad => ⟨_, exec_mpow_of_not_legal hwf hbad, rfl⟩,
    fun _ _ hbad => ⟨_, exec_fib_of_not_legal hbad, rfl⟩,
    fun _ _ hlegal hlow => ⟨_, exec_fib_of_index_lt_one hlegal hlow, rfl⟩,
    fun _ _ hge => ⟨_, exec_vlimbin_of_ge hge, rfl⟩⟩

end Sys2Proof.Machine
end

section
/-!
PROOF. While rst is asserted (R230): what the host port answers, that the engine does nothing, and the steps that assert
and release rst.
-/

namespace Sys2Proof.Machine

/-! ## The port and the engine under reset -/

/-- A read under reset returns 0, also at an offset and a size that R63 leaves undefined (log 7). -/
theorem hostRead_of_rst {s : State} (hrst : s.rst = true) (off n : Nat) :
    s.hostRead off n = .next (s.respond (.data 0)) := by
  rw [State.hostRead, if_pos hrst]

/-- A write under reset is ignored, also at an offset and a size that R63 leaves undefined (log 7). -/
theorem hostWrite_of_rst {s : State} (hrst : s.rst = true) (off n : Nat) (w : Word) :
    s.hostWrite off n w = .next (s.respond .done) := by
  rw [State.hostWrite, if_pos hrst]

theorem engineEnabled_of_rst {s : State} (hrst : s.rst = true) : s.engineEnabled = false := by
  rw [State.engineEnabled, hrst, Bool.not_true, Bool.and_false]

theorem runEngine_of_not_enabled {s : State} (hen : s.engineEnabled = false) : s.runEngine = .next s := by
  rw [State.runEngine, hen]
  rfl

/-- The engine's turn under reset, whether by an event or with none pending (R240). -/
theorem step_engineNext_of_rst {s : State} (hrst : s.rst = true) (hnext : s.engineNext = true) :
    step s = .next s.popped :=
  (step_of_engineNext hnext).trans <|
    runEngine_of_not_enabled (s := s.popped) (engineEnabled_of_rst (s := s.popped) hrst)

/-! ## The steps that change rst -/

theorem step_of_assertRst {s : State} {rest : List Event} (hin : s.inbox = .assertRst :: rest) :
    step s = .next (s.withInbox rest).assertReset := by
  unfold step
  rw [hin]

theorem step_of_releaseRst {s : State} {rest : List Event} (hin : s.inbox = .releaseRst :: rest) :
    step s = .next (s.withInbox rest).releaseReset := by
  unfold step
  rw [hin]

/-- Settles O56: asserting rst writes the reset values, and what can have the step afterwards answers the host or leaves
the engine alone, until the release. -/
theorem assertedResetHoldsEverything : Obligations.AssertedResetHoldsEverything := by
  intro s
  constructor
  · intro e rest hin
    refine ⟨?asserted, fun hrst => ⟨?read, ?write, ?engine⟩, ?released⟩
    case asserted =>
      rintro rfl
      exact ⟨_, step_of_assertRst hin, rfl⟩
    case read =>
      rintro off n rfl
      exact (step_of_read hin).trans (hostRead_of_rst (s := s.withInbox rest) hrst off n)
    case write =>
      rintro off n w rfl
      exact (step_of_write hin).trans (hostWrite_of_rst (s := s.withInbox rest) hrst off n w)
    case engine =>
      rintro rfl
      have hnext : s.engineNext = true := by rw [State.engineNext, hin]
      rw [step_engineNext_of_rst hrst hnext, popped_of_cons hin]
      rfl
    case released =>
      rintro rfl
      exact step_of_releaseRst hin
  · intro hin hrst
    have hnext : s.engineNext = true := by rw [State.engineNext, hin]
    rw [step_engineNext_of_rst hrst hnext, popped_of_nil hin]

end Sys2Proof.Machine
end
